-- ==== Sys2Proof/Word.lean ====
section
/-! DEFINITION. The word types of MUXCODEC (00_scope.md R8, R9). -/

namespace Sys2Proof

/-- A frame-buffer byte or a wire byte (R8). -/
abbrev Byte := BitVec 8

/-- A command word, and a binary32 pattern (R8, R70). -/
abbrev Word32 := BitVec 32

/-- DIN, DOUT and a binary64 pattern (R8). -/
abbrev Word64 := BitVec 64

end Sys2Proof
end

