-- ==== Sys2Proof/Syntax.lean ====
section
/-! DEFINITION. The instructions: one constructor per row of spec/opcode_table.json (15 command words of format
CMD32, 16 wire opcode families of format WIRE8), and the names their operands range over. -/

namespace Sys2Proof

/-- A resolution (10_state.md R22). The reserved codes 5, 6 and 7 name none, so no constructor stands for them. -/
inductive Resolution where
  | int8 | int16 | int32 | float | ignore
deriving DecidableEq, Repr

/-- The integer resolutions, the ones that are scaled (R101, R102). -/
inductive IntRes where
  | int8 | int16 | int32
deriving DecidableEq, Repr

/-- A physical quantity (10_state.md R24). -/
inductive Quantity where
  | position | velocity | torque | pwm | voltage | temperature | time | current
deriving DecidableEq, Repr

/-- The instructions of MUXCODEC. The first fifteen are the command words of 30_encoding.md R71; the last sixteen
are the wire opcode families of R81, whose low four bits are an operand (RC and C in the three multiplex families
of R80). -/
inductive Instr where
  | reset
  | fbClear
  | fbPut (idx : BitVec 6) (byte : Byte)
  | fbGet (idx : BitVec 6)
  | fbSetlen (len : BitVec 7)
  | fbAppendRaw (res : Resolution)
  | fbAppendQ (res : Resolution) (qty : Quantity)
  | qQuant (res : Resolution) (qty : Quantity)
  | qDequant (res : Resolution) (qty : Quantity)
  | cmbInit (base : Byte)
  | cmbDecl (res : Resolution)
  | cmbStep
  | cmbEnd
  | prsInit
  | prsNext
  | muxWrite (rc c : BitVec 2)
  | muxRead (rc c : BitVec 2)
  | muxReply (rc c : BitVec 2)
  | muxError (low : BitVec 4)
  | tunnel (low : BitVec 4)
  | nop (low : BitVec 4)
  | unassigned6 (low : BitVec 4)
  | unassigned7 (low : BitVec 4)
  | unassigned8 (low : BitVec 4)
  | unassigned9 (low : BitVec 4)
  | unassignedA (low : BitVec 4)
  | unassignedB (low : BitVec 4)
  | unassignedC (low : BitVec 4)
  | unassignedD (low : BitVec 4)
  | unassignedE (low : BitVec 4)
  | unassignedF (low : BitVec 4)
deriving DecidableEq, Repr

end Sys2Proof
end

