-- ==== Sys2Proof/WellFormed.lean ====
section
/-! DEFINITION. Which instructions are legal: the operand checks of 30_encoding.md R73 that the operands' types do
not already make. -/

namespace Sys2Proof

/-- The base opcodes a combiner accepts (30_encoding.md R73.5, decision D16). -/
def legalBases : List Byte := [0x00#8, 0x10#8, 0x20#8]

/-- The legality of an instruction: LEN is at most 64 (R73.4) and BASE is a legal base (R73.5). The checks on RES
(R73.3) and on unused bits (R73.2) are checks of the word: an `Instr` has no place for what they refuse. -/
def Instr.wellFormed : Instr → Bool
  | .fbSetlen len => len.toNat ≤ 64
  | .cmbInit base => legalBases.contains base
  | .reset => true
  | .fbClear => true
  | .fbPut _ _ => true
  | .fbGet _ => true
  | .fbAppendRaw _ => true
  | .fbAppendQ _ _ => true
  | .qQuant _ _ => true
  | .qDequant _ _ => true
  | .cmbDecl _ => true
  | .cmbStep => true
  | .cmbEnd => true
  | .prsInit => true
  | .prsNext => true
  | .muxWrite _ _ => true
  | .muxRead _ _ => true
  | .muxReply _ _ => true
  | .muxError _ => true
  | .tunnel _ => true
  | .nop _ => true
  | .unassigned6 _ => true
  | .unassigned7 _ => true
  | .unassigned8 _ => true
  | .unassigned9 _ => true
  | .unassignedA _ => true
  | .unassignedB _ => true
  | .unassignedC _ => true
  | .unassignedD _ => true
  | .unassignedE _ => true
  | .unassignedF _ => true

/-- `i.wellFormed`, as a proposition. -/
abbrev Instr.WellFormed (i : Instr) : Prop := i.wellFormed = true

end Sys2Proof
end

