-- ==== Sys2Proof/Decode.lean ====
section
/-! DEFINITION. Decoding and encoding: command words (30_encoding.md R70–R74) and wire opcode bytes (R80–R90). -/

namespace Sys2Proof

/-! ## Names and their codes -/

/-- The 3-bit code of a resolution (10_state.md R22). -/
def Resolution.code : Resolution → BitVec 3
  | .int8 => 0#3
  | .int16 => 1#3
  | .int32 => 2#3
  | .float => 3#3
  | .ignore => 4#3

/-- The resolution a 3-bit field names; 5, 6 and 7 are reserved (R22). -/
def Resolution.ofCode? (b : BitVec 3) : Option Resolution :=
  [Resolution.int8, .int16, .int32, .float, .ignore].find? (fun r => r.code == b)

/-- The wire code of a resolution other than Ignore, `r[1:0]` (R22). Ignore has none; its low bits are never
written (43_combiner.md R143). -/
def Resolution.wireCode (r : Resolution) : BitVec 2 := r.code.setWidth 2

/-- The resolution a 2-bit wire code names (R22, R80). -/
def Resolution.ofWire (rc : BitVec 2) : Resolution :=
  match rc.toNat with
  | 0 => .int8
  | 1 => .int16
  | 2 => .int32
  | _ => .float

/-- The 3-bit index of a quantity (R24). -/
def Quantity.code : Quantity → BitVec 3
  | .position => 0#3
  | .velocity => 1#3
  | .torque => 2#3
  | .pwm => 3#3
  | .voltage => 4#3
  | .temperature => 5#3
  | .time => 6#3
  | .current => 7#3

/-- The quantity a 3-bit index names; every index names one (R24). -/
def Quantity.ofCode (b : BitVec 3) : Quantity :=
  match b.toNat with
  | 0 => .position
  | 1 => .velocity
  | 2 => .torque
  | 3 => .pwm
  | 4 => .voltage
  | 5 => .temperature
  | 6 => .time
  | _ => .current

/-! ## The command word -/

/-- The command opcodes (R71). -/
inductive Opcode where
  | reset | fbClear | fbPut | fbGet | fbSetlen | fbAppendRaw | fbAppendQ
  | qQuant | qDequant | cmbInit | cmbDecl | cmbStep | cmbEnd | prsInit | prsNext
deriving DecidableEq, Repr

/-- The opcode's value in CMD[7:0] (R71). -/
def Opcode.code : Opcode → Byte
  | .reset => 0x01#8
  | .fbClear => 0x02#8
  | .fbPut => 0x03#8
  | .fbGet => 0x04#8
  | .fbSetlen => 0x05#8
  | .fbAppendRaw => 0x06#8
  | .fbAppendQ => 0x07#8
  | .qQuant => 0x10#8
  | .qDequant => 0x11#8
  | .cmbInit => 0x20#8
  | .cmbDecl => 0x21#8
  | .cmbStep => 0x22#8
  | .cmbEnd => 0x23#8
  | .prsInit => 0x30#8
  | .prsNext => 0x31#8

/-- The bits of the word the command uses, its opcode's bits included (R71). -/
def Opcode.usedBits : Opcode → Word32
  | .reset | .fbClear | .cmbStep | .cmbEnd | .prsInit | .prsNext => 0x000000FF#32
  | .fbPut => 0xFF3F00FF#32
  | .fbGet => 0x003F00FF#32
  | .fbSetlen => 0x007F00FF#32
  | .fbAppendRaw | .cmbDecl => 0x000007FF#32
  | .fbAppendQ | .qQuant | .qDequant => 0x00003FFF#32
  | .cmbInit => 0x00FF00FF#32

/-- The opcodes, in the order of R71. -/
def Opcode.all : List Opcode :=
  [.reset, .fbClear, .fbPut, .fbGet, .fbSetlen, .fbAppendRaw, .fbAppendQ, .qQuant, .qDequant, .cmbInit, .cmbDecl,
    .cmbStep, .cmbEnd, .prsInit, .prsNext]

/-- The opcode a byte names; every other byte is reserved opcode space (R73.1). -/
def Opcode.ofCode? (b : Byte) : Option Opcode := Opcode.all.find? (fun o => o.code == b)

/-- Why a command word is illegal: the five checks of R73, in its order. -/
inductive Reject where
  /-- R73.1: OP is none of the fifteen opcodes. -/
  | reservedOpcode
  /-- R73.2: a bit outside the fields the command uses is 1. -/
  | unusedBit
  /-- R73.3: RES is 5, 6 or 7. -/
  | reservedResolution
  /-- R73.4: FB_SETLEN with LEN above 64. -/
  | lengthAbove64
  /-- R73.5: CMB_INIT with a base other than 0x00, 0x10 and 0x20. -/
  | illegalBase
deriving DecidableEq, Repr

/-- OP = CMD[7:0] (R72). -/
def fieldOp (w : Word32) : Byte := w.extractLsb' 0 8

/-- RES = CMD[10:8] (R72). -/
def fieldRes (w : Word32) : BitVec 3 := w.extractLsb' 8 3

/-- QTY = CMD[13:11] (R72). -/
def fieldQty (w : Word32) : BitVec 3 := w.extractLsb' 11 3

/-- IDX = CMD[21:16] (R72). -/
def fieldIdx (w : Word32) : BitVec 6 := w.extractLsb' 16 6

/-- BYTE = CMD[31:24] (R72). -/
def fieldByte (w : Word32) : Byte := w.extractLsb' 24 8

/-- LEN = CMD[22:16] (R72). -/
def fieldLen (w : Word32) : BitVec 7 := w.extractLsb' 16 7

/-- BASE = CMD[23:16] (R72). -/
def fieldBase (w : Word32) : Byte := w.extractLsb' 16 8

/-- The instruction made from the word's RES field, refused when RES is reserved (R73.3). -/
def withRes (w : Word32) (mk : Resolution → Instr) : Except Reject Instr :=
  match Resolution.ofCode? (fieldRes w) with
  | none => .error .reservedResolution
  | some r => .ok (mk r)

/-- `i` if its operands are legal, refused for `why` otherwise (R73.4, R73.5). -/
def ifLegal (i : Instr) (why : Reject) : Except Reject Instr := if i.wellFormed then .ok i else .error why

/-- The operands of a word whose opcode is known and whose unused bits are 0 (R72). -/
def decodeOperands (op : Opcode) (w : Word32) : Except Reject Instr :=
  match op with
  | .reset => .ok .reset
  | .fbClear => .ok .fbClear
  | .fbPut => .ok (.fbPut (fieldIdx w) (fieldByte w))
  | .fbGet => .ok (.fbGet (fieldIdx w))
  | .fbSetlen => ifLegal (.fbSetlen (fieldLen w)) .lengthAbove64
  | .fbAppendRaw => withRes w fun r => .fbAppendRaw r
  | .fbAppendQ => withRes w fun r => .fbAppendQ r (Quantity.ofCode (fieldQty w))
  | .qQuant => withRes w fun r => .qQuant r (Quantity.ofCode (fieldQty w))
  | .qDequant => withRes w fun r => .qDequant r (Quantity.ofCode (fieldQty w))
  | .cmbInit => ifLegal (.cmbInit (fieldBase w)) .illegalBase
  | .cmbDecl => withRes w fun r => .cmbDecl r
  | .cmbStep => .ok .cmbStep
  | .cmbEnd => .ok .cmbEnd
  | .prsInit => .ok .prsInit
  | .prsNext => .ok .prsNext

/-- Command decode with the checks of R73 in their order: a legal word is one of the fifteen commands (R74). -/
def decodeCommand (w : Word32) : Except Reject Instr :=
  match Opcode.ofCode? (fieldOp w) with
  | none => .error .reservedOpcode
  | some op => if w &&& ~~~op.usedBits = 0#32 then decodeOperands op w else .error .unusedBit

/-! ## Wire opcode bytes -/

/-- The families of wire opcode bytes (R81), the unassigned high nibbles one by one (R90). -/
inductive Family where
  | write | read | reply | error | tunnel | filler
  | unassigned6 | unassigned7 | unassigned8 | unassigned9 | unassignedA | unassignedB | unassignedC | unassignedD
  | unassignedE | unassignedF
deriving DecidableEq, Repr

/-- The family of the high nibble F = b[7:4] (R80, R81). -/
def Family.ofNibble (f : BitVec 4) : Family :=
  match f.toNat with
  | 0x0 => .write
  | 0x1 => .read
  | 0x2 => .reply
  | 0x3 => .error
  | 0x4 => .tunnel
  | 0x5 => .filler
  | 0x6 => .unassigned6
  | 0x7 => .unassigned7
  | 0x8 => .unassigned8
  | 0x9 => .unassigned9
  | 0xA => .unassignedA
  | 0xB => .unassignedB
  | 0xC => .unassignedC
  | 0xD => .unassignedD
  | 0xE => .unassignedE
  | _ => .unassignedF

/-- F = b[7:4] (R80). -/
def wireFamily (b : Byte) : Family := Family.ofNibble (b.extractLsb' 4 4)

/-- RC = b[3:2] (R80). -/
def wireRC (b : Byte) : BitVec 2 := b.extractLsb' 2 2

/-- C = b[1:0] (R80). -/
def wireC (b : Byte) : BitVec 2 := b.extractLsb' 0 2

/-- The low nibble b[3:0], which has no meaning outside the multiplex families (R89, I7). -/
def wireLow (b : Byte) : BitVec 4 := b.extractLsb' 0 4

/-- The wire opcode a byte is; every byte belongs to a row of the table (R82–R84, R87–R90). -/
def decodeWire (b : Byte) : Instr :=
  match wireFamily b with
  | .write => .muxWrite (wireRC b) (wireC b)
  | .read => .muxRead (wireRC b) (wireC b)
  | .reply => .muxReply (wireRC b) (wireC b)
  | .error => .muxError (wireLow b)
  | .tunnel => .tunnel (wireLow b)
  | .filler => .nop (wireLow b)
  | .unassigned6 => .unassigned6 (wireLow b)
  | .unassigned7 => .unassigned7 (wireLow b)
  | .unassigned8 => .unassigned8 (wireLow b)
  | .unassigned9 => .unassigned9 (wireLow b)
  | .unassignedA => .unassignedA (wireLow b)
  | .unassignedB => .unassignedB (wireLow b)
  | .unassignedC => .unassignedC (wireLow b)
  | .unassignedD => .unassignedD (wireLow b)
  | .unassignedE => .unassignedE (wireLow b)
  | .unassignedF => .unassignedF (wireLow b)

/-- The payload bytes of a wire resolution code: 1, 2, 4, 4 (R23). -/
def wireSize (rc : BitVec 2) : Nat :=
  match rc.toNat with
  | 0 => 1
  | 1 => 2
  | _ => 4

/-- The bytes of a write or reply command with resolution code `rc` and inline count `c` that stands before
`explicit` (read only when `c` is 0): header and payload (R86). A count of 0 makes the two-byte empty command. -/
def multiplexLength (rc c : BitVec 2) (explicit : Byte) : Nat :=
  if c ≠ 0#2 then 2 + c.toNat * wireSize rc
  else if explicit = 0#8 then 2
  else 3 + explicit.toNat * wireSize rc

/-! ## What the host hands over, and decoding it -/

/-- The two encodings: a 32-bit command word, and a wire opcode byte (30_encoding.md). -/
inductive Encoded where
  | command (w : Word32)
  | wire (b : Byte)
deriving DecidableEq, Repr

/-- Decoding of either encoding; total, rejecting by name. -/
def decode : Encoded → Except Reject Instr
  | .command w => decodeCommand w
  | .wire b => .ok (decodeWire b)

/-- The instruction the decoder reads from a row of spec/opcode_table.json: a row of 8 bits is a wire opcode byte, a
row of 32 bits a command word. -/
def decodeTableWord (nbits w : Nat) : Option Instr :=
  if nbits = 8 then some (decodeWire (BitVec.ofNat 8 w))
  else if nbits = 32 then
    match decodeCommand (BitVec.ofNat 32 w) with
    | .ok i => some i
    | .error _ => none
  else none

/-! ## Encoding -/

/-- A command word from its fields (R70, R72): OP at bit 0 and every operand at its place; absent operands are 0. -/
def commandWord (op : Opcode) (operands : Word32) : Encoded := .command (operands ||| op.code.setWidth 32)

/-- RES at bits 10:8 (R70). -/
def placeRes (r : Resolution) : Word32 := r.code.setWidth 32 <<< 8

/-- QTY at bits 13:11 (R70). -/
def placeQty (q : Quantity) : Word32 := q.code.setWidth 32 <<< 11

/-- A wire byte from its family nibble and its low nibble (R80). -/
def wireByte (family low : BitVec 4) : Encoded := .wire (family ++ low)

/-- The encoding of an instruction (R72 for the commands, R80–R90 for the wire opcodes). -/
def encode : Instr → Encoded
  | .reset => commandWord .reset 0#32
  | .fbClear => commandWord .fbClear 0#32
  | .fbPut idx byte => commandWord .fbPut (byte.setWidth 32 <<< 24 ||| idx.setWidth 32 <<< 16)
  | .fbGet idx => commandWord .fbGet (idx.setWidth 32 <<< 16)
  | .fbSetlen len => commandWord .fbSetlen (len.setWidth 32 <<< 16)
  | .fbAppendRaw res => commandWord .fbAppendRaw (placeRes res)
  | .fbAppendQ res qty => commandWord .fbAppendQ (placeQty qty ||| placeRes res)
  | .qQuant res qty => commandWord .qQuant (placeQty qty ||| placeRes res)
  | .qDequant res qty => commandWord .qDequant (placeQty qty ||| placeRes res)
  | .cmbInit base => commandWord .cmbInit (base.setWidth 32 <<< 16)
  | .cmbDecl res => commandWord .cmbDecl (placeRes res)
  | .cmbStep => commandWord .cmbStep 0#32
  | .cmbEnd => commandWord .cmbEnd 0#32
  | .prsInit => commandWord .prsInit 0#32
  | .prsNext => commandWord .prsNext 0#32
  | .muxWrite rc c => wireByte 0x0#4 (rc ++ c)
  | .muxRead rc c => wireByte 0x1#4 (rc ++ c)
  | .muxReply rc c => wireByte 0x2#4 (rc ++ c)
  | .muxError low => wireByte 0x3#4 low
  | .tunnel low => wireByte 0x4#4 low
  | .nop low => wireByte 0x5#4 low
  | .unassigned6 low => wireByte 0x6#4 low
  | .unassigned7 low => wireByte 0x7#4 low
  | .unassigned8 low => wireByte 0x8#4 low
  | .unassigned9 low => wireByte 0x9#4 low
  | .unassignedA low => wireByte 0xA#4 low
  | .unassignedB low => wireByte 0xB#4 low
  | .unassignedC low => wireByte 0xC#4 low
  | .unassignedD low => wireByte 0xD#4 low
  | .unassignedE low => wireByte 0xE#4 low
  | .unassignedF low => wireByte 0xF#4 low

/-- The command word an instruction encodes to, 0 (an illegal word) for a wire opcode. -/
def encodeCommand (i : Instr) : Word32 :=
  match encode i with
  | .command w => w
  | .wire _ => 0#32

end Sys2Proof
end

