-- ==== Sys2Proof/Machine/Ieee.lean ====
section
/-! DEFINITION. The IEEE 754 primitives of 00_scope.md R11 and the conversions of 41_quantizer.md R104 and R105, on
bit patterns: unpack to an exact value, compute with exact integers, round once to nearest even, pack. -/

namespace Sys2Proof.Machine

/-! ## Unpacked values -/

/-- An exact finite value: (−1)^neg · mant · 2^exp. -/
structure Finite where
  neg : Bool
  mant : Nat
  exp : Int
deriving DecidableEq, Repr

/-- What a binary64 or binary32 pattern stands for. -/
inductive FloatValue where
  | nan
  | inf (neg : Bool)
  | finite (x : Finite)
deriving DecidableEq, Repr

/-- A binary interchange format: `fracBits` fraction bits, an all-ones biased exponent `expOnes`, and `minExp`, the
exponent of the last place of its subnormals. -/
structure FloatFormat where
  fracBits : Nat
  expOnes : Nat
  minExp : Int
deriving DecidableEq, Repr

/-- binary64 (IEEE 754; 00_scope.md R8). -/
def binary64 : FloatFormat := { fracBits := 52, expOnes := 0x7FF, minExp := -1074 }

/-- binary32 (IEEE 754; 41_quantizer.md R103). -/
def binary32 : FloatFormat := { fracBits := 23, expOnes := 0xFF, minExp := -149 }

/-- The value of a pattern given by its sign, biased exponent and fraction: NaN and infinity at the all-ones
exponent, subnormals and zero at exponent 0 (kept, never flushed: R11), normals otherwise. -/
def FloatFormat.unpack (f : FloatFormat) (neg : Bool) (biased frac : Nat) : FloatValue :=
  if biased = f.expOnes then (if frac = 0 then .inf neg else .nan)
  else if biased = 0 then .finite { neg, mant := frac, exp := f.minExp }
  else .finite { neg, mant := 2 ^ f.fracBits + frac, exp := f.minExp + (biased - 1 : Nat) }

/-- The value of a binary64 pattern. -/
def unpack64 (x : Word64) : FloatValue :=
  binary64.unpack (x.getLsbD 63) (x.extractLsb' 52 11).toNat (x.extractLsb' 0 52).toNat

/-- The value of a binary32 pattern. -/
def unpack32 (x : Word32) : FloatValue :=
  binary32.unpack (x.getLsbD 31) (x.extractLsb' 23 8).toNat (x.extractLsb' 0 23).toNat

/-- `isNaN` of R11 on binary64. -/
def isNaN64 (x : Word64) : Bool :=
  match unpack64 x with
  | .nan => true
  | .inf _ => false
  | .finite _ => false

/-- `isInf` of R11 on binary64. -/
def isInf64 (x : Word64) : Bool :=
  match unpack64 x with
  | .inf _ => true
  | .nan => false
  | .finite _ => false

/-- `isFinite` of R11 on binary64. -/
def isFinite64 (x : Word64) : Bool :=
  match unpack64 x with
  | .finite _ => true
  | .nan => false
  | .inf _ => false

/-- Whether a binary32 pattern is a NaN. -/
def isNaN32 (x : Word32) : Bool :=
  match unpack32 x with
  | .nan => true
  | .inf _ => false
  | .finite _ => false

/-- Positive and finite, as every scale must be (41_quantizer.md R101). -/
def isPositiveFinite64 (x : Word64) : Bool :=
  match unpack64 x with
  | .finite v => !v.neg && v.mant != 0
  | .nan => false
  | .inf _ => false

/-! ## Rounding and packing -/

/-- 2^e as a numerator and a denominator. -/
def powNum (e : Int) : Nat := 2 ^ e.toNat
@[inherit_doc powNum]
def powDen (e : Int) : Nat := 2 ^ (-e).toNat

/-- The integer nearest `num / den`, a tie going to the even one (R11). -/
def nearestEven (num den : Nat) : Nat :=
  let q := num / den
  let r := num % den
  if 2 * r < den then q else if den < 2 * r then q + 1 else q + q % 2

/-- ⌊log2 (num / den)⌋ of a positive fraction. -/
def floorLog2 (num den : Nat) : Int :=
  let k : Int := (num.log2 : Int) - (den.log2 : Int)
  if den * powNum k ≤ num * powDen k then k else k - 1

/-- The exponent of the last place that `num / den` is rounded to: `fracBits` places below its leading bit, never
below the subnormals' (subnormal results are kept: R11). -/
def FloatFormat.lastPlace (f : FloatFormat) (num den : Nat) : Int :=
  max (floorLog2 num den - f.fracBits) f.minExp

/-- The magnitude pattern (exponent and fraction bits) of `num / den` rounded to nearest even; a magnitude that rounds
beyond the largest finite one is infinity's pattern (R104). The significand is added to the exponent's places, so a
significand that rounds up to the next power of two carries into the exponent. -/
def FloatFormat.roundMagnitude (f : FloatFormat) (num den : Nat) : Nat :=
  if num = 0 then 0
  else
    let p := f.lastPlace num den
    let m := nearestEven (num * powDen p) (den * powNum p)
    min ((p - f.minExp).toNat * 2 ^ f.fracBits + m) (f.expOnes * 2 ^ f.fracBits)

/-- The binary64 pattern of a sign and a magnitude pattern. -/
def pack64 (neg : Bool) (magnitude : Nat) : Word64 :=
  (BitVec.ofBool neg ++ BitVec.ofNat 63 magnitude : BitVec 64)

/-- The binary32 pattern of a sign and a magnitude pattern. -/
def pack32 (neg : Bool) (magnitude : Nat) : Word32 :=
  (BitVec.ofBool neg ++ BitVec.ofNat 31 magnitude : BitVec 32)

/-! ## Arithmetic of R11 -/

/-- The numerator of |x| as a fraction of natural numbers. -/
def Finite.num (x : Finite) : Nat := x.mant * powNum x.exp

/-- The denominator of |x| as a fraction of natural numbers. -/
def Finite.den (x : Finite) : Nat := powDen x.exp

/-- `f64_div` of R11 on finite operands, the divisor not 0: the only operands the quantizer gives it (R102: v is
finite, s positive and finite). The quotient's sign is the exclusive or of the signs. -/
def f64Div (a b : Finite) : Word64 :=
  pack64 (a.neg != b.neg) (binary64.roundMagnitude (a.num * b.den) (a.den * b.num))

/-- `f64_mul` of R11 on finite operands, the only ones the quantizer gives it (R106). -/
def f64Mul (a b : Finite) : Word64 :=
  pack64 (a.neg != b.neg) (binary64.roundMagnitude (a.num * b.num) (a.den * b.den))

/-- `f64_of_int(k)` of R11: the exact value of the integer k, which is a binary64 for every |k| ≤ 2^31; 0 is +0. -/
def Finite.ofInt (k : Int) : Finite := { neg := k < 0, mant := k.natAbs, exp := 0 }

/-- The signed numerator of x over `x.den`. -/
def Finite.signedNum (x : Finite) : Int := if x.neg then -(x.num : Int) else x.num

/-- x < k, on exact values. -/
def FloatValue.ltInt (x : FloatValue) (k : Int) : Bool :=
  match x with
  | .nan => false
  | .inf neg => neg
  | .finite v => v.signedNum < k * v.den

/-- x > k, on exact values. -/
def FloatValue.gtInt (x : FloatValue) (k : Int) : Bool :=
  match x with
  | .nan => false
  | .inf neg => !neg
  | .finite v => k * v.den < v.signedNum

/-- `trunc(x)` of R11: the integer nearest x in the direction of zero. -/
def Finite.trunc (x : Finite) : Int :=
  if x.neg then -((x.num / x.den : Nat) : Int) else ((x.num / x.den : Nat) : Int)

/-! ## Conversions between the formats -/

/-- The default NaN clause of R104: sign kept, quiet bit set, the top 22 payload bits below the quiet bit kept. -/
def narrowNaN (v : Word64) : Word32 :=
  (v.extractLsb' 63 1 ++ 0xFF#8 ++ 1#1 ++ v.extractLsb' 29 22 : BitVec 32)

/-- `F64_TO_F32` of R104, with the NaN clause as an argument (the parameter NAN_NARROW). -/
def f64ToF32 (nanNarrow : Word64 → Word32) (v : Word64) : Word32 :=
  match unpack64 v with
  | .nan => nanNarrow v
  | .inf neg => pack32 neg 0x7F800000
  | .finite x => pack32 x.neg (binary32.roundMagnitude x.num x.den)

/-- `F32_TO_F64` of R105: exact for every pattern but a NaN, which keeps sign and payload and gets the quiet bit. -/
def f32ToF64 (f : Word32) : Word64 :=
  match unpack32 f with
  | .nan => (f.extractLsb' 31 1 ++ 0x7FF#11 ++ 1#1 ++ f.extractLsb' 0 22 ++ 0#29 : BitVec 64)
  | .inf neg => pack64 neg 0x7FF0000000000000
  | .finite x => pack64 x.neg (binary64.roundMagnitude x.num x.den)

end Sys2Proof.Machine
end

