-- ==== Sys2Proof/Config.lean ====
section
/-! DEFINITION. What an implementation fixes: the constants and parameters of 00_scope.md R7, and the free values. -/

namespace Sys2Proof.Config

/-! ## Constants (R7) -/

/-- FB_CAP: the frame buffer's capacity in bytes. -/
def fbCap : Nat := 64

/-- ADDR_MAX: the largest register id a header may carry. -/
def addrMax : Nat := 127

/-- N_MAX: the most resolutions a combiner declares. -/
def nMax : Nat := 255

/-! ## Parameters (R7; 93_implementation_defined.md I8–I11; log entries 7 and 8)

They are fixed before reset and written by no command (70_reset_and_hazards.md R231). They are plain data, so that
`State` carries them and a statement about every state holds for every admissible choice. -/

/-- A scale: a positive finite binary64. A zero, negative or non-finite entry is outside the spec and refused (I9):
it cannot be built. -/
structure Scale where
  bits : Word64
  ok : Machine.isPositiveFinite64 bits = true
deriving DecidableEq, Repr

/-- The three scales of one quantity. -/
structure ScaleRow where
  int8 : Scale
  int16 : Scale
  int32 : Scale
deriving DecidableEq, Repr

/-- SCALE[q][r] (41_quantizer.md R101). -/
structure ScaleTable where
  position : ScaleRow
  velocity : ScaleRow
  torque : ScaleRow
  pwm : ScaleRow
  voltage : ScaleRow
  temperature : ScaleRow
  time : ScaleRow
  current : ScaleRow
deriving DecidableEq, Repr

/-- PARSE_HIGH_REG: what the parser does with a start-register byte of 0x80 or above (44_parser.md R166). -/
inductive HighReg where
  /-- AS_BYTE: the byte is the id. -/
  | asByte
  /-- STOP: the sequence ends with ERROR. -/
  | stop
deriving DecidableEq, Repr

/-- NAN_F64: a binary64 NaN, the one a sentinel decodes to (R106, I11). -/
structure NaN64 where
  bits : Word64
  ok : Machine.isNaN64 bits = true
deriving DecidableEq, Repr

/-- NAN_NARROW: which binary32 NaN a binary64 NaN is narrowed to (R104, I10). -/
inductive NanNarrow where
  /-- The payload-keeping clause of R104. -/
  | keepPayload
  /-- The implementation's own choice, `implementationNarrow`. -/
  | implementation
deriving DecidableEq, Repr

/-- The parameters together. -/
structure Params where
  scale : ScaleTable
  parseHighReg : HighReg
  nanF64 : NaN64
  nanNarrow : NanNarrow
deriving DecidableEq, Repr

/-- FREE VALUE (log entry 8): the pattern an implementation with a NAN_NARROW of its own proposes for a NaN. -/
opaque narrowChoice : Word64 → Word32

/-- FREE VALUE (log entry 4): what the n-th read of the write-only register CMD returns. -/
opaque cmdReadValue : Nat → Word32

end Sys2Proof.Config
end

