-- ==== Sys2Proof/Machine/Params.lean ====
section
/-! DEFINITION. Reading the parameters of Config.lean, and their defaults (00_scope.md R7, 41_quantizer.md R101). -/

namespace Sys2Proof.Config

/-- The implementation's NAN_NARROW: any choice that returns a binary32 NaN (I10); a proposal that is none is
replaced by R104's clause, so every function to binary32 NaNs, and no other, is covered. -/
def implementationNarrow (v : Word64) : Word32 :=
  if Machine.isNaN32 (narrowChoice v) then narrowChoice v else Machine.narrowNaN v

/-- The NaN clause of F64_TO_F32 under a parameter choice (R104). -/
def NanNarrow.apply : NanNarrow → Word64 → Word32
  | .keepPayload => Machine.narrowNaN
  | .implementation => implementationNarrow

/-- SCALE[q][r] of a table. -/
def ScaleTable.entry (t : ScaleTable) (q : Quantity) (r : IntRes) : Scale :=
  let row := match q with
    | .position => t.position
    | .velocity => t.velocity
    | .torque => t.torque
    | .pwm => t.pwm
    | .voltage => t.voltage
    | .temperature => t.temperature
    | .time => t.time
    | .current => t.current
  match r with
  | .int8 => row.int8
  | .int16 => row.int16
  | .int32 => row.int32

/-! ## Defaults -/

/-- The default scale table (41_quantizer.md R101, its hexadecimal patterns). -/
def defaultScale : ScaleTable where
  position := ⟨⟨0x3F847AE147AE147B#64, by decide⟩, ⟨0x3F1A36E2EB1C432D#64, by decide⟩, ⟨0x3EE4F8B588E368F1#64, by decide⟩⟩
  velocity := ⟨⟨0x3FB999999999999A#64, by decide⟩, ⟨0x3F30624DD2F1A9FC#64, by decide⟩, ⟨0x3EE4F8B588E368F1#64, by decide⟩⟩
  torque := ⟨⟨0x3FE0000000000000#64, by decide⟩, ⟨0x3F847AE147AE147B#64, by decide⟩, ⟨0x3F50624DD2F1A9FC#64, by decide⟩⟩
  pwm := ⟨⟨0x3F80204081020408#64, by decide⟩, ⟨0x3F00002000400080#64, by decide⟩, ⟨0x3E00000000200000#64, by decide⟩⟩
  voltage := ⟨⟨0x3FE0000000000000#64, by decide⟩, ⟨0x3FB999999999999A#64, by decide⟩, ⟨0x3F50624DD2F1A9FC#64, by decide⟩⟩
  temperature := ⟨⟨0x3FF0000000000000#64, by decide⟩, ⟨0x3FB999999999999A#64, by decide⟩, ⟨0x3F50624DD2F1A9FC#64, by decide⟩⟩
  time := ⟨⟨0x3F847AE147AE147B#64, by decide⟩, ⟨0x3F50624DD2F1A9FC#64, by decide⟩, ⟨0x3EB0C6F7A0B5ED8D#64, by decide⟩⟩
  current := ⟨⟨0x3FF0000000000000#64, by decide⟩, ⟨0x3FB999999999999A#64, by decide⟩, ⟨0x3F50624DD2F1A9FC#64, by decide⟩⟩

/-- The defaults of R7. -/
def defaults : Params where
  scale := defaultScale
  parseHighReg := .asByte
  nanF64 := ⟨0x7FF8000000000000#64, by decide⟩
  nanNarrow := .keepPayload

end Sys2Proof.Config
end

