-- ==== Sys2Proof/Machine/State.lean ====
section
/-! DEFINITION. The state of MUXCODEC: the eighteen variables of 10_state.md R20, and the model's own fields
(the parameters in force, the host's pending accesses). State is plain data. -/

namespace Sys2Proof.Machine

/-- Why the machine stops. Every reason is a field value that the spec says never occurs (log entry 9): no run from
reset reaches one, and stopping there is safe. -/
inductive Fault where
  /-- Raised by PRS_NEXT and MUX_REPLY when FLEN is above 64, a value it never has (00_scope.md R8, 20_memory.md R51):
  the parser would read a byte that does not exist. Safe. -/
  | frameLengthAbove64
  /-- Raised by CMB_STEP when CI is above CN, which never holds (10_state.md R28). Safe. -/
  | combinerCursorPastEnd
  /-- Raised by PRS_NEXT in INRUN when PREM is 0, which never holds (10_state.md R29). Safe. -/
  | emptyRun
  /-- Raised by PRS_NEXT when PNEXT is at the top of its 16 bits: ids never wrap (44_parser.md R162, decision D21).
  Safe. -/
  | registerIdAtTop
deriving DecidableEq, Repr

/-- Why the model has no meaning for an instruction. -/
inductive Refusal where
  /-- The instruction is not modelled yet: raised by `exec`'s arm alone, and by none of them now. Safe. -/
  | notModelled (mnemonic : String)
deriving DecidableEq, Repr

/-- The outcome of a step of this machine. -/
abbrev Result (State : Type) := Host.Outcome State Fault Refusal

/-- The frame buffer as a list of (index, byte) pairs in one canonical form (`Memory.wf`). -/
abbrev Memory := List Host.Cell

/-- The error kinds of 60_exceptions.md R200; ERR holds one, codes 6 and 7 are never written. -/
inductive ErrorKind where
  | none | bufferOverflow | unsupportedAddress | invalidResolution | internalContractViolation | illegalCommand
deriving DecidableEq, Repr

/-- The parser states of 10_state.md R29; codes 5 to 7 never occur. -/
inductive ParserState where
  | idle | scanning | inRun | exhausted | error
deriving DecidableEq, Repr

/-- One access of the host (10_state.md R33), or its reset line (70_reset_and_hazards.md R230). -/
inductive Transaction where
  /-- `issue(cmd, din)`: write DIN, then execute the command word. -/
  | issue (cmd : Word32) (din : Word64)
  /-- A write of a host register by index. -/
  | write (index : Nat) (value : Word64)
  /-- A read of a host register by index. -/
  | read (index : Nat)
  /-- The hardware reset. -/
  | hardwareReset
deriving DecidableEq, Repr

/-- THE MODEL'S OWN fields about the host (log entries 1, 4 and 5): the accesses not yet served (oldest first), the
value the last read returned, and how many free values have been used. -/
structure HostPort where
  queue : List Transaction
  rdata : Word64
  freeCount : Nat
deriving DecidableEq, Repr

/-- The state: R20's variables under their names, then the model's own two fields. -/
structure State where
  /-- FB[0..63] (R25). -/
  fb : Memory
  /-- FLEN (R25). -/
  flen : BitVec 7
  /-- RCUR (R25). -/
  rcur : BitVec 7
  /-- DIN (R26). -/
  din : Word64
  /-- DOUT (R27). -/
  dout : Word64
  /-- FAULT (R32). -/
  fault : Bool
  /-- ERR (R32). -/
  err : ErrorKind
  /-- CACT (R28). -/
  cact : Bool
  /-- CBASE (R28). -/
  cbase : Byte
  /-- CSTART (R28). -/
  cstart : BitVec 16
  /-- CN (R28). -/
  cn : BitVec 8
  /-- CI (R28). -/
  ci : BitVec 8
  /-- CCUR (R28). -/
  ccur : Resolution
  /-- CRES[0..254] (R28). -/
  cres : Vector Resolution 255
  /-- PSTATE (R29). -/
  pstate : ParserState
  /-- PREM (R29). -/
  prem : BitVec 8
  /-- PRES (R29). -/
  pres : BitVec 2
  /-- PNEXT (R29). -/
  pnext : BitVec 16
  /-- The model's own: the parameters of R7, fixed before reset, written by no step (R231). -/
  cfg : Config.Params
  /-- The model's own: the host's side. -/
  port : HostPort
deriving DecidableEq, Repr

/-- The state after reset (70_reset_and_hazards.md R230): every variable as the table there gives it, the parameters
at their defaults (R7), nothing asked by the host yet (log entries 1 and 5). -/
def State.reset : State where
  fb := []
  flen := 0#7
  rcur := 0#7
  din := 0#64
  dout := 0#64
  fault := false
  err := .none
  cact := false
  cbase := 0x00#8
  cstart := 0#16
  cn := 0#8
  ci := 0#8
  ccur := .ignore
  cres := Vector.replicate 255 .ignore
  pstate := .idle
  prem := 0#8
  pres := 0#2
  pnext := 0#16
  cfg := Config.defaults
  port := { queue := [], rdata := 0#64, freeCount := 0 }

end Sys2Proof.Machine
end

