-- ==== Sys2Proof/Machine/Ops.lean ====
section
/-! DEFINITION. The named operations the meanings share: the frame buffer's bytes, appending, the shared checks, and
raising an error (60_exceptions.md R203), MUXCODEC's exception. -/

namespace Sys2Proof.Machine

/-! ## Memory: a list of (index, byte) pairs, indices strictly rising, no entry equal to what an unlisted index reads -/

/-- What an index that is not listed reads as: FB's reset contents (70_reset_and_hazards.md R230). -/
def Memory.unlisted : Byte := 0x00#8

/-- The byte at an index. -/
def Memory.read : Memory → Nat → Byte
  | [], _ => Memory.unlisted
  | (x, y) :: m, a => if a = x then y else Memory.read m a

/-- Store a byte, keeping the canonical form. -/
def Memory.write : Memory → Nat → Byte → Memory
  | [], a, b => if b = Memory.unlisted then [] else [(a, b)]
  | (x, y) :: m, a, b =>
    if a < x then (if b = Memory.unlisted then (x, y) :: m else (a, b) :: (x, y) :: m)
    else if a = x then (if b = Memory.unlisted then m else (x, b) :: m)
    else (x, y) :: Memory.write m a b

/-- The canonical form from index `lo` on: indices at least `lo`, strictly rising, below FB_CAP, no entry listed in
vain. -/
def Memory.wfFrom : Nat → Memory → Bool
  | _, [] => true
  | lo, (x, y) :: m => decide (lo ≤ x) && decide (x < Config.fbCap) && decide (y ≠ Memory.unlisted) && Memory.wfFrom (x + 1) m

/-- The canonical form. -/
def Memory.wf (m : Memory) : Bool := Memory.wfFrom 0 m

/-- Store bytes at consecutive indices, the first at `a`. -/
def Memory.writeBytes : Memory → Nat → List Byte → Memory
  | m, _, [] => m
  | m, a, b :: bs => Memory.writeBytes (Memory.write m a b) (a + 1) bs

/-- `MemRead(a, n)` of 00_scope.md R10: n bytes, little-endian (20_memory.md R54), zero-extended; n is at most 4. -/
def Memory.readLE (m : Memory) (a : Nat) : Nat → Word32
  | 0 => 0#32
  | n + 1 => (Memory.read m a).setWidth 32 ||| (Memory.readLE m (a + 1) n <<< 8)

/-- The low n bytes of a word, least significant first: what `MemWrite(addr, n, v)` stores at addr, addr + 1, …
(00_scope.md R10, 20_memory.md R54, R55). -/
def bytesLE : Nat → Word64 → List Byte
  | 0, _ => []
  | n + 1, v => v.setWidth 8 :: bytesLE n (v >>> 8)

/-! ## The frame -/

/-- FB[i]. -/
def State.readByte (s : State) (i : Nat) : Byte := s.fb.read i

/-- `FB[i] <- b` (R10). -/
def State.writeByte (s : State) (i : Nat) (b : Byte) : State := { s with fb := s.fb.write i b }

/-- `Append` of R10, of a list of bytes: store them at FLEN and move FLEN past them. Used only after the capacity
check. -/
def State.append (s : State) (bs : List Byte) : State :=
  { s with fb := s.fb.writeBytes s.flen.toNat bs, flen := s.flen + BitVec.ofNat 7 bs.length }

/-- The condition of the capacity check of 42_frame_writer.md R125: n more bytes do not fit. -/
def State.overflows (s : State) (n : Nat) : Bool := Config.fbCap < s.flen.toNat + n

/-- The parser is live: PSTATE ∈ {SCANNING, INRUN} (20_memory.md R64). -/
def State.parserLive (s : State) : Bool :=
  match s.pstate with
  | .scanning => true
  | .inRun => true
  | .idle => false
  | .exhausted => false
  | .error => false

/-! ## Errors -/

/-- What an error leaves: FAULT set and its code in ERR, nothing else changed (60_exceptions.md R203). -/
def State.raised (s : State) (e : ErrorKind) : State := { s with fault := true, err := e }

/-- `raise e` (00_scope.md R10; 60_exceptions.md R203): the one exception of MUXCODEC. Only the first error since reset
is recorded (10_state.md R32). -/
def raise (e : ErrorKind) (s : State) : Result State := .next (if s.fault then s else s.raised e)

/-- Every state variable at its reset value (45_control.md R190, 70_reset_and_hazards.md R230), the return from a fault
(60_exceptions.md R207). The parameters and the host's side are no state of MUXCODEC and stay. -/
def State.resetAll (s : State) : State := { State.reset with cfg := s.cfg, port := s.port }

/-- While FAULT = 1 a command has no effect at all (60_exceptions.md R204). -/
def unlessFaulted (s : State) (k : Result State) : Result State := if s.fault then .next s else k

/-- The buffer-mutation guard, before every other error of the command (42_frame_writer.md R120). -/
def guardMutation (s : State) (k : Result State) : Result State := if s.parserLive then raise .illegalCommand s else k

/-- The capacity check before an append of n bytes (42_frame_writer.md R125). -/
def checkCapacity (n : Nat) (s : State) (k : Result State) : Result State :=
  if s.overflows n then raise .bufferOverflow s else k

end Sys2Proof.Machine
end

