-- ==== Sys2Proof/Machine/Operands.lean ====
section
/-! DEFINITION. The operand forms: how a resolution is used (10_state.md R22, R23), and what a command takes from DIN
(30_encoding.md R71, 10_state.md R26). -/

namespace Sys2Proof.Machine

/-- How a resolution represents a value: not at all, as a binary32, or as a scaled integer (R22, R101, R103). -/
inductive ValueForm where
  | absent
  | float
  | integer (r : IntRes)
deriving DecidableEq, Repr

/-- The form of each resolution (R22). -/
def valueForm : Resolution → ValueForm
  | .int8 => .integer .int8
  | .int16 => .integer .int16
  | .int32 => .integer .int32
  | .float => .float
  | .ignore => .absent

/-- The payload bytes of an integer resolution (R23). -/
def intSize : IntRes → Nat
  | .int8 => 1
  | .int16 => 2
  | .int32 => 4

/-- The payload bytes of a binary32 (R23). -/
def floatSize : Nat := 4

/-- MAX(r) (R23). -/
def intMax : IntRes → Int
  | .int8 => 127
  | .int16 => 32767
  | .int32 => 2147483647

/-- MIN(r) = −MAX(r) − 1, the sentinel (R23, 00_scope.md R13). -/
def intMin (r : IntRes) : Int := -intMax r - 1

/-- The payload size of a form that has one; Ignore has none and no rule evaluates it (R23). -/
def formSize? : ValueForm → Option Nat
  | .absent => none
  | .float => some floatSize
  | .integer r => some (intSize r)

/-- DIN[15:0], the start register of CMB_INIT (R71, 43_combiner.md R141). -/
def dinStart (s : State) : BitVec 16 := s.din.setWidth 16

/-- DIN[31:0], a binary32 pattern (41_quantizer.md R109). -/
def dinFloat (s : State) : Word32 := s.din.setWidth 32

/-- `sval` of DIN[8w−1:0], an integer payload (00_scope.md R9, 41_quantizer.md R106, R109). -/
def dinInt (r : IntRes) (s : State) : Int := (s.din.setWidth (8 * intSize r)).toInt

/-- An integer as the w-byte two's-complement pattern of a resolution, zero-extended to 64 bits (R102, R108). -/
def intPattern (r : IntRes) (k : Int) : Word64 := (BitVec.ofInt (8 * intSize r) k).setWidth 64

end Sys2Proof.Machine
end

