-- ==== Sys2Proof/Machine/Flags.lean ====
section
/-! DEFINITION. What the host can test: the codes and the views STATUS, LENS, AUX (10_state.md R30, R31, R35), and the
result words of CMB_STEP and PRS_NEXT. MUXCODEC has no condition codes (R35). -/

namespace Sys2Proof.Machine

/-- The 3-bit code of ERR (10_state.md R30, 60_exceptions.md R200). -/
def ErrorKind.code : ErrorKind → BitVec 3
  | .none => 0#3
  | .bufferOverflow => 1#3
  | .unsupportedAddress => 2#3
  | .invalidResolution => 3#3
  | .internalContractViolation => 4#3
  | .illegalCommand => 5#3

/-- The 3-bit code of PSTATE (10_state.md R29). -/
def ParserState.code : ParserState → BitVec 3
  | .idle => 0#3
  | .scanning => 1#3
  | .inRun => 2#3
  | .exhausted => 3#3
  | .error => 4#3

/-- STATUS (R30), the fields from bit 31 down to bit 0. -/
def State.statusView (s : State) : Word32 :=
  (0#8 ++ s.prem ++ 0#3 ++ s.pres ++ s.ccur.code ++ s.pstate.code ++ BitVec.ofBool s.cact ++ s.err.code ++
    BitVec.ofBool s.fault : BitVec 32)

/-- LENS (R31): CI, CN, RCUR, FLEN from the top. -/
def State.lensView (s : State) : Word32 := (s.ci ++ s.cn ++ 0#1 ++ s.rcur ++ 0#1 ++ s.flen : BitVec 32)

/-- AUX (R31): PNEXT, CSTART, CBASE from the top. -/
def State.auxView (s : State) : Word64 := (0#16 ++ s.pnext ++ s.cstart ++ 0#8 ++ s.cbase : BitVec 64)

/-- CMB_STEP's write-value flag in DOUT[0], the other bits 0 (43_combiner.md R143, 10_state.md R35). -/
def writeFlag (writeValue : Bool) : Word64 := (BitVec.ofBool writeValue).setWidth 64

/-- A yielded element: VALID, the wire code, the register id, the payload (44_parser.md R168). -/
def element (id : BitVec 16) (rc : BitVec 2) (payload : Word32) : Word64 :=
  (1#1 ++ 0#13 ++ rc ++ id ++ payload : BitVec 64)

end Sys2Proof.Machine
end

