-- ==== Sys2Proof/Machine/Combiner.lean ====
section
/-! DEFINITION. The write combiner: CMB_INIT, CMB_DECL, CMB_STEP, CMB_END (43_combiner.md). -/

namespace Sys2Proof.Machine

/-- CRES[k]. There is no entry above 254 and no rule reads one (10_state.md R28). -/
def State.declared (s : State) (k : Nat) : Resolution := (s.cres[k]?).getD .ignore

/-- How many of the `n` declarations from position `j` on equal `r` without a break. -/
def runFrom (s : State) (r : Resolution) : Nat → Nat → Nat
  | _, 0 => 0
  | j, n + 1 => if s.declared j = r then 1 + runFrom s r (j + 1) n else 0

/-- `runlen(i)` of R140: the run of equal declarations from position i, bounded by CN. -/
def State.runLength (s : State) (i : Nat) : Nat := runFrom s (s.declared i) i (s.cn.toNat - i)

/-- The header opcode byte (R144). -/
def headerOpcode (base : Byte) (r : Resolution) (count : Nat) : Byte :=
  base ||| r.wireCode.setWidth 8 <<< 2 ||| (if count ≤ 3 then BitVec.ofNat 8 count else 0#8)

/-- The header's bytes (R143, R85): the opcode, the count byte of the long form, the register id. -/
def headerBytes (base : Byte) (r : Resolution) (count reg : Nat) : List Byte :=
  if count ≤ 3 then [headerOpcode base r count, BitVec.ofNat 8 reg]
  else [headerOpcode base r count, BitVec.ofNat 8 count, BitVec.ofNat 8 reg]

/-- The checks of the whole header before any byte is written, in the order of R146. -/
def headerError? (s : State) (count reg : Nat) : Option ErrorKind :=
  let h := if count ≤ 3 then 1 else 2
  if s.overflows h then some .bufferOverflow
  else if Config.addrMax < reg then some .unsupportedAddress
  else if s.overflows (h + 1) then some .bufferOverflow
  else none

/-- The state after a decision: CCUR, the write-value flag, and CI moved on (R143, its step 4). -/
def State.decided (s : State) (cur : Resolution) (writeValue : Bool) : State :=
  { s with ccur := cur, dout := writeFlag writeValue, ci := s.ci + 1#8 }

/-- The decision for the register at position CI (R143, from its step 2 on). -/
def decideRegister (s : State) : Result State :=
  let i := s.ci.toNat
  let r := s.declared i
  if r = s.ccur then .next (s.decided r (r != .ignore))
  else if r = .ignore then .next (s.decided .ignore false)
  else
    let count := s.runLength i
    let reg := s.cstart.toNat + i
    match headerError? s count reg with
    | some e => raise e s
    | none => .next ((s.append (headerBytes s.cbase r count reg)).decided r true)

/-- CMB_INIT (R141). A base outside {0x00, 0x10, 0x20} is illegal before the teardown check (30_encoding.md R73.5). -/
def execCmbInit (base : Byte) (s : State) : Result State :=
  unlessFaulted s <|
    if !legalBases.contains base then raise .illegalCommand s
    else if s.cact && s.ci != s.cn then raise .internalContractViolation s
    else .next { s with
      cact := true, cbase := base, cstart := dinStart s, cn := 0#8, ci := 0#8, ccur := .ignore }

/-- CMB_DECL (R142). -/
def execCmbDecl (res : Resolution) (s : State) : Result State :=
  unlessFaulted s <|
    if !s.cact then raise .illegalCommand s
    else if s.ci ≠ 0#8 then raise .illegalCommand s
    else if s.cn.toNat = Config.nMax then raise .illegalCommand s
    else .next { s with cres := s.cres.setIfInBounds s.cn.toNat res, cn := s.cn + 1#8 }

/-- CMB_STEP (R143). -/
def execCmbStep (s : State) : Result State :=
  unlessFaulted s <| guardMutation s <|
    if !s.cact then raise .illegalCommand s
    else if s.ci = s.cn then raise .internalContractViolation s
    else if s.cn < s.ci then .fault .combinerCursorPastEnd
    else decideRegister s

/-- CMB_END (R145). -/
def execCmbEnd (s : State) : Result State :=
  unlessFaulted s <|
    if !s.cact then raise .illegalCommand s
    else if s.ci ≠ s.cn then raise .internalContractViolation s
    else .next { s with cact := false }

end Sys2Proof.Machine
end

