-- ==== Sys2Proof/Machine/Control.lean ====
section
/-! DEFINITION. RESET (45_control.md). -/

namespace Sys2Proof.Machine

/-- RESET (R190): the only command that executes while FAULT = 1 (60_exceptions.md R204, R207). -/
def execReset (s : State) : Result State := .next s.resetAll

end Sys2Proof.Machine
end

