-- ==== Sys2Proof/Machine/Quantizer.lean ====
section
/-! DEFINITION. The scaled-value quantizer: Q_QUANT and Q_DEQUANT (41_quantizer.md). -/

namespace Sys2Proof.Machine

/-- The value of a scale, which is positive and finite. -/
def scaleValue (c : Config.Scale) : Finite :=
  match unpack64 c.bits with
  | .finite x => x
  | .nan => Finite.ofInt 1  -- not reached: a scale is finite (`Config.Scale.ok`)
  | .inf _ => Finite.ofInt 1  -- not reached, for the same reason

/-- The clamp and the truncation of R102, of the scaled quotient x: the integer that is encoded. -/
def clampTrunc (r : IntRes) (x : FloatValue) : Int :=
  if x.ltInt (-intMax r) then -intMax r
  else if x.gtInt (intMax r) then intMax r
  else match x with
    | .finite v => v.trunc
    | .inf _ => intMin r  -- not reached: an infinity is below −MAX or above MAX
    | .nan => intMin r  -- not reached: the quotient is never NaN (R102)

/-- The integer `quantize_int` encodes (R102): the sentinel for NaN and the infinities, else the clamped quotient by
the scale. -/
def quantizeInt (v : Word64) (r : IntRes) (scale : Config.Scale) : Int :=
  match unpack64 v with
  | .nan => intMin r
  | .inf _ => intMin r
  | .finite x => clampTrunc r (unpack64 (f64Div x (scaleValue scale)))

/-- `quantize_float` (R103): a conversion, no scaling and no sentinel. -/
def quantizeFloat (p : Config.Params) (v : Word64) : Word32 := f64ToF32 p.nanNarrow.apply v

/-- `dequantize_int` (R106), of the signed value k of the raw pattern. -/
def dequantizeInt (p : Config.Params) (k : Int) (r : IntRes) (scale : Config.Scale) : Word64 :=
  if k = intMin r then p.nanF64.bits else f64Mul (Finite.ofInt k) (scaleValue scale)

/-- `dequantize_float` (R107). -/
def dequantizeFloat (u : Word32) : Word64 := f32ToF64 u

/-- What a value quantizes to at a resolution that transmits one (R102, R103; for Q_QUANT and FB_APPEND_Q): the number
of payload bytes, and the wire pattern zero-extended to 64 bits. -/
def quantized? (p : Config.Params) (v : Word64) (res : Resolution) (qty : Quantity) : Option (Nat × Word64) :=
  match valueForm res with
  | .absent => none
  | .float => some (floatSize, (quantizeFloat p v).setWidth 64)
  | .integer r => some (intSize r, intPattern r (quantizeInt v r (p.scale.entry qty r)))

/-- Q_QUANT (R108). -/
def execQQuant (res : Resolution) (qty : Quantity) (s : State) : Result State :=
  unlessFaulted s <|
    match quantized? s.cfg s.din res qty with
    | none => raise .invalidResolution s
    | some (_, u) => .next { s with dout := u }

/-- Q_DEQUANT (R109). -/
def execQDequant (res : Resolution) (qty : Quantity) (s : State) : Result State :=
  unlessFaulted s <|
    match valueForm res with
    | .absent => raise .invalidResolution s
    | .float => .next { s with dout := dequantizeFloat (dinFloat s) }
    | .integer r => .next { s with dout := dequantizeInt s.cfg (dinInt r s) r (s.cfg.scale.entry qty r) }

end Sys2Proof.Machine
end

