-- ==== Sys2Proof/Machine/FrameBuffer.lean ====
section
/-! DEFINITION. The host's byte port and the frame writer: FB_CLEAR, FB_PUT, FB_GET, FB_SETLEN, FB_APPEND_RAW,
FB_APPEND_Q (42_frame_writer.md). -/

namespace Sys2Proof.Machine

/-- FB_CLEAR (R121): an empty frame, and no parser. No byte of FB changes (20_memory.md R53). -/
def execFbClear (s : State) : Result State :=
  unlessFaulted s <| .next { s with flen := 0#7, rcur := 0#7, pstate := .idle }

/-- FB_PUT (R122). -/
def execFbPut (idx : BitVec 6) (byte : Byte) (s : State) : Result State :=
  unlessFaulted s <| guardMutation s <| .next (s.writeByte idx.toNat byte)

/-- FB_GET (R123); allowed while the parser is live. -/
def execFbGet (idx : BitVec 6) (s : State) : Result State :=
  unlessFaulted s <| .next { s with dout := (s.readByte idx.toNat).setWidth 64 }

/-- FB_SETLEN (R124). A length above 64 is illegal before the guard (30_encoding.md R73.4). -/
def execFbSetlen (len : BitVec 7) (s : State) : Result State :=
  unlessFaulted s <|
    if Config.fbCap < len.toNat then raise .illegalCommand s
    else guardMutation s <| .next { s with flen := len }

/-- FB_APPEND_RAW (R126): the guard, then InvalidResolution, then the capacity check, then the append. -/
def execFbAppendRaw (res : Resolution) (s : State) : Result State :=
  unlessFaulted s <| guardMutation s <|
    match formSize? (valueForm res) with
    | none => raise .invalidResolution s
    | some w => checkCapacity w s <| .next (s.append (bytesLE w s.din))

/-- FB_APPEND_Q (R127): as FB_APPEND_RAW, of the quantized value. -/
def execFbAppendQ (res : Resolution) (qty : Quantity) (s : State) : Result State :=
  unlessFaulted s <| guardMutation s <|
    match quantized? s.cfg s.din res qty with
    | none => raise .invalidResolution s
    | some (w, u) => checkCapacity w s <| .next (s.append (bytesLE w u))

end Sys2Proof.Machine
end

