-- ==== Sys2Proof/Machine/Parser.lean ====
section
/-! DEFINITION. The reply parser: the wire opcodes as the parser's scan runs them, PRS_INIT and PRS_NEXT
(44_parser.md, 30_encoding.md R80–R90).

A wire opcode is an instruction that PRS_NEXT fetches at RCUR while PSTATE = SCANNING and RCUR < FLEN, inside the one
atomic step of the command (log entry 2). Its meaning is one turn of the scan loop of R162. -/

namespace Sys2Proof.Machine

/-! ## Parts of the scan -/

/-- The byte at the cursor. -/
def State.cursorByte (s : State) : Byte := s.readByte s.rcur.toNat

/-- The cursor moved past n bytes. -/
def State.consume (s : State) (n : Nat) : State := { s with rcur := s.rcur + BitVec.ofNat 7 n }

/-- `end(S)` of R162: the sequence is over and DOUT is 0 (R169). -/
def State.endSequence (s : State) (p : ParserState) : State := { s with pstate := p, dout := 0#64 }

/-- RCUR ≥ FLEN: no byte of the frame is left (R164). -/
def State.atEnd (s : State) : Bool := s.flen ≤ s.rcur

/-- A frame longer than the buffer does not exist (20_memory.md R51; log entry 9). -/
def withinFrame (s : State) (k : Result State) : Result State :=
  if Config.fbCap < s.flen.toNat then .fault .frameLengthAbove64 else k

/-- A framing error (R167): the opcode byte is consumed and the sequence ends with ERROR. -/
def framingError (s : State) : Result State := .next ((s.consume 1).endSequence .error)

/-- The run opened by a reply header whose count is known (R165, R166): the start-register byte is read, or is missing
(R164), or is 0x80 or above and stops the parser under PARSE_HIGH_REG = STOP. -/
def openRun (rc : BitVec 2) (count : Byte) (s : State) : State :=
  if s.atEnd then s.endSequence .exhausted
  else
    let reg := s.cursorByte
    let t := s.consume 1
    if s.cfg.parseHighReg = .stop ∧ 0x80 ≤ reg.toNat then t.endSequence .error
    else { t with pres := rc, pnext := reg.setWidth 16, prem := count, pstate := .inRun }

/-- The explicit count byte of the long form, then the run (R165): a count of 0 is an empty command, after which the
scan goes on. -/
def openLongRun (rc : BitVec 2) (s : State) : State :=
  if s.atEnd then s.endSequence .exhausted
  else
    let count := s.cursorByte
    if count = 0#8 then s.consume 1 else openRun rc count (s.consume 1)

/-! ## The wire opcodes -/

/-- MUX_WRITE, 0x00–0x0F: to the parser a framing error (30_encoding.md R82, 44_parser.md R167). -/
def execMuxWrite (_rc _c : BitVec 2) (s : State) : Result State := framingError s

/-- MUX_READ, 0x10–0x1F: to the parser a framing error (30_encoding.md R83, 44_parser.md R167). -/
def execMuxRead (_rc _c : BitVec 2) (s : State) : Result State := framingError s

/-- MUX_REPLY, 0x20–0x2F: opens a run of `c` registers, or of an explicit count when `c` is 0 (30_encoding.md R84, R85,
44_parser.md R165). -/
def execMuxReply (rc c : BitVec 2) (s : State) : Result State :=
  withinFrame s <|
    .next (if c = 0#2 then openLongRun rc (s.consume 1) else openRun rc (c.setWidth 8) (s.consume 1))

/-- MUX_ERROR, 0x30–0x3F: a framing error (30_encoding.md R87, 44_parser.md R167). -/
def execMuxError (_low : BitVec 4) (s : State) : Result State := framingError s

/-- TUNNEL, 0x40–0x4F: a framing error (30_encoding.md R88, 90_conflicts.md C2). -/
def execTunnel (_low : BitVec 4) (s : State) : Result State := framingError s

/-- NOP, 0x50–0x5F: consumed and skipped, its low nibble without meaning (30_encoding.md R89, 44_parser.md R163). -/
def execNop (_low : BitVec 4) (s : State) : Result State := .next (s.consume 1)

/-- Bytes 0x60–0x6F: a framing error (30_encoding.md R90, 44_parser.md R167). -/
def execUnassigned6 (_low : BitVec 4) (s : State) : Result State := framingError s

/-- Bytes 0x70–0x7F: a framing error (30_encoding.md R90, 44_parser.md R167). -/
def execUnassigned7 (_low : BitVec 4) (s : State) : Result State := framingError s

/-- Bytes 0x80–0x8F: a framing error (30_encoding.md R90, 44_parser.md R167). -/
def execUnassigned8 (_low : BitVec 4) (s : State) : Result State := framingError s

/-- Bytes 0x90–0x9F: a framing error (30_encoding.md R90, 44_parser.md R167). -/
def execUnassigned9 (_low : BitVec 4) (s : State) : Result State := framingError s

/-- Bytes 0xA0–0xAF: a framing error (30_encoding.md R90, 44_parser.md R167). -/
def execUnassignedA (_low : BitVec 4) (s : State) : Result State := framingError s

/-- Bytes 0xB0–0xBF: a framing error (30_encoding.md R90, 44_parser.md R167). -/
def execUnassignedB (_low : BitVec 4) (s : State) : Result State := framingError s

/-- Bytes 0xC0–0xCF: a framing error (30_encoding.md R90, 44_parser.md R167). -/
def execUnassignedC (_low : BitVec 4) (s : State) : Result State := framingError s

/-- Bytes 0xD0–0xDF: a framing error (30_encoding.md R90, 44_parser.md R167). -/
def execUnassignedD (_low : BitVec 4) (s : State) : Result State := framingError s

/-- Bytes 0xE0–0xEF: a framing error (30_encoding.md R90, 44_parser.md R167). -/
def execUnassignedE (_low : BitVec 4) (s : State) : Result State := framingError s

/-- Bytes 0xF0–0xFF: a framing error (30_encoding.md R90, 44_parser.md R167). -/
def execUnassignedF (_low : BitVec 4) (s : State) : Result State := framingError s

/-- The wire opcode whose byte stands at the cursor, run: one meaning per family (R81). -/
def runWire (b : Byte) (s : State) : Result State :=
  match wireFamily b with
  | .write => execMuxWrite (wireRC b) (wireC b) s
  | .read => execMuxRead (wireRC b) (wireC b) s
  | .reply => execMuxReply (wireRC b) (wireC b) s
  | .error => execMuxError (wireLow b) s
  | .tunnel => execTunnel (wireLow b) s
  | .filler => execNop (wireLow b) s
  | .unassigned6 => execUnassigned6 (wireLow b) s
  | .unassigned7 => execUnassigned7 (wireLow b) s
  | .unassigned8 => execUnassigned8 (wireLow b) s
  | .unassigned9 => execUnassigned9 (wireLow b) s
  | .unassignedA => execUnassignedA (wireLow b) s
  | .unassignedB => execUnassignedB (wireLow b) s
  | .unassignedC => execUnassignedC (wireLow b) s
  | .unassignedD => execUnassignedD (wireLow b) s
  | .unassignedE => execUnassignedE (wireLow b) s
  | .unassignedF => execUnassignedF (wireLow b) s

/-! ## The commands -/

/-- The element of an open run (the InRun part of R162): its payload is read, or is missing and not consumed (R164). -/
def yieldElement (s : State) : Result State :=
  let w := wireSize s.pres
  if s.prem = 0#8 then .fault .emptyRun
  else if s.flen.toNat < s.rcur.toNat + w then .next (s.endSequence .exhausted)
  else if s.pnext = 0xFFFF#16 then .fault .registerIdAtTop
  else
    let t := s.consume w
    .next { t with
      dout := element s.pnext s.pres (s.fb.readLE s.rcur.toNat w)
      pnext := s.pnext + 1#16
      prem := s.prem - 1#8
      pstate := if s.prem = 1#8 then .scanning else .inRun }

/-- The scan loop of R162, at most n wire opcodes: it ends at the end of the frame, at the end of the sequence, or with
the element of the run that was opened. -/
def scan : Nat → State → Result State
  | 0, s => .next (s.endSequence .exhausted)
  | n + 1, s =>
    if s.atEnd then .next (s.endSequence .exhausted)
    else
      match runWire s.cursorByte s with
      | .next t =>
        match t.pstate with
        | .scanning => scan n t
        | .inRun => yieldElement t
        | .idle => .next t
        | .exhausted => .next t
        | .error => .next t
      | .fault r => .fault r
      | .refused r => .refused r

/-- PRS_INIT (R161): a fresh parser, in every parser state. -/
def execPrsInit (s : State) : Result State :=
  unlessFaulted s <| .next { s with rcur := 0#7, pstate := .scanning, prem := 0#8, pres := 0#2, pnext := 0#16 }

/-- PRS_NEXT (R162). Each turn of the scan consumes a byte below FLEN, so FLEN − RCUR turns are enough (R170). -/
def execPrsNext (s : State) : Result State :=
  unlessFaulted s <|
    match s.pstate with
    | .idle => raise .illegalCommand s
    | .exhausted => .next { s with dout := 0#64 }
    | .error => .next { s with dout := 0#64 }
    | .scanning => withinFrame s <| scan (s.flen.toNat - s.rcur.toNat) s
    | .inRun => withinFrame s <| yieldElement s

end Sys2Proof.Machine
end

