-- ==== Sys2Proof/Machine/Dispatch.lean ====
section
/-! DEFINITION. Each instruction and its meaning. -/

namespace Sys2Proof.Machine

/-- The meaning of an instruction, one arm per row of spec/opcode_table.json. -/
def exec (i : Instr) (s : State) : Host.Outcome State Fault Refusal :=
  match i with
  | .reset => Sys2Proof.Machine.execReset s
  | .fbClear => Sys2Proof.Machine.execFbClear s
  | .fbPut idx byte => Sys2Proof.Machine.execFbPut idx byte s
  | .fbGet idx => Sys2Proof.Machine.execFbGet idx s
  | .fbSetlen len => Sys2Proof.Machine.execFbSetlen len s
  | .fbAppendRaw res => Sys2Proof.Machine.execFbAppendRaw res s
  | .fbAppendQ res qty => Sys2Proof.Machine.execFbAppendQ res qty s
  | .qQuant res qty => Sys2Proof.Machine.execQQuant res qty s
  | .qDequant res qty => Sys2Proof.Machine.execQDequant res qty s
  | .cmbInit base => Sys2Proof.Machine.execCmbInit base s
  | .cmbDecl res => Sys2Proof.Machine.execCmbDecl res s
  | .cmbStep => Sys2Proof.Machine.execCmbStep s
  | .cmbEnd => Sys2Proof.Machine.execCmbEnd s
  | .prsInit => Sys2Proof.Machine.execPrsInit s
  | .prsNext => Sys2Proof.Machine.execPrsNext s
  | .muxWrite rc c => Sys2Proof.Machine.execMuxWrite rc c s
  | .muxRead rc c => Sys2Proof.Machine.execMuxRead rc c s
  | .muxReply rc c => Sys2Proof.Machine.execMuxReply rc c s
  | .muxError low => Sys2Proof.Machine.execMuxError low s
  | .tunnel low => Sys2Proof.Machine.execTunnel low s
  | .nop low => Sys2Proof.Machine.execNop low s
  | .unassigned6 low => Sys2Proof.Machine.execUnassigned6 low s
  | .unassigned7 low => Sys2Proof.Machine.execUnassigned7 low s
  | .unassigned8 low => Sys2Proof.Machine.execUnassigned8 low s
  | .unassigned9 low => Sys2Proof.Machine.execUnassigned9 low s
  | .unassignedA low => Sys2Proof.Machine.execUnassignedA low s
  | .unassignedB low => Sys2Proof.Machine.execUnassignedB low s
  | .unassignedC low => Sys2Proof.Machine.execUnassignedC low s
  | .unassignedD low => Sys2Proof.Machine.execUnassignedD low s
  | .unassignedE low => Sys2Proof.Machine.execUnassignedE low s
  | .unassignedF low => Sys2Proof.Machine.execUnassignedF low s

end Sys2Proof.Machine
end

