-- ==== Sys2Proof/Machine/Port.lean ====
section
/-! DEFINITION. The host's side: the host registers (10_state.md R33), the command transaction, and serving the next
pending access. MUXCODEC fetches nothing: the host supplies every command (R34; log entry 1). -/

namespace Sys2Proof.Machine

/-- Execute a command word (R33). While FAULT = 1 decode does not run: exactly 0x00000001 resets, every other word has
no effect (60_exceptions.md R204). Otherwise an illegal word raises IllegalCommand with no other effect
(30_encoding.md R73) and a legal one runs. -/
def runCommand (w : Word32) (s : State) : Result State :=
  if s.fault then
    if w = 0x00000001#32 then exec .reset s else .next s
  else
    match decodeCommand w with
    | .ok i => exec i s
    | .error _ => raise .illegalCommand s

/-- What a read of a host register returns, zero-extended (R33; log entry 6). CMD is write-only and the spec states no
value for a read of it: a free value (log entry 4). -/
def State.hostRegister (s : State) (index : Nat) : Word64 :=
  match index with
  | 0 => (Config.cmdReadValue s.port.freeCount).setWidth 64
  | 1 => s.din
  | 2 => s.dout
  | 3 => s.statusView.setWidth 64
  | 4 => s.lensView.setWidth 64
  | 5 => s.auxView
  | _ => 0#64

/-- A host read: no variable of MUXCODEC changes (R33); the host's side keeps the value, and a read of CMD uses up one
free value. -/
def State.hostRead (s : State) (index : Nat) : State :=
  { s with port := { s.port with
      rdata := s.hostRegister index
      freeCount := if index = 0 then s.port.freeCount + 1 else s.port.freeCount } }

/-- A host write by index (R33): CMD executes the word with the DIN that is held (log entry 3), DIN stores the value,
every other index has no effect. -/
def hostWrite (index : Nat) (value : Word64) (s : State) : Result State :=
  match index with
  | 0 => runCommand (value.setWidth 32) s
  | 1 => .next { s with din := value }
  | _ => .next s

/-- One access of the host. -/
def serve (t : Transaction) (s : State) : Result State :=
  match t with
  | .issue cmd din => runCommand cmd { s with din := din }
  | .write index value => hostWrite index value s
  | .read index => .next (s.hostRead index)
  | .hardwareReset => .next s.resetAll

/-- The state once the oldest pending access has been taken. -/
def State.withQueue (s : State) (q : List Transaction) : State := { s with port := { s.port with queue := q } }

/-- Take the oldest pending access and serve it; with none pending MUXCODEC waits (70_reset_and_hazards.md R230). -/
def serveNext (s : State) : Result State :=
  match s.port.queue with
  | [] => .next s
  | t :: rest => serve t (s.withQueue rest)

/-! ## Placing an instruction where the next step fetches it -/

/-- The command PRS_NEXT as the host issues it, with the DIN that is held. -/
def prsNextTransaction (s : State) : Transaction := .issue (encodeCommand .prsNext) s.din

/-- How many frame bytes a wire opcode with operand bytes of zeros takes (30_encoding.md R86): the multiplex command of
a reply, and one byte for every other family, of which the parser reads no more. -/
def wireUnitLength (b : Byte) : Nat :=
  match decodeWire b with
  | .muxReply rc c => multiplexLength rc c 0#8
  | _ => 1

/-- A command word is placed as the host's next transaction, with the DIN that is held. -/
def State.placeCommand (s : State) (w : Word32) : State := s.withQueue (.issue w s.din :: s.port.queue)

/-- A wire opcode is placed as the frame, its operand bytes zeros, under a parser that scans from its first byte, with
PRS_NEXT as the host's next transaction (log entry 2). -/
def State.placeWire (s : State) (b : Byte) : State :=
  let n := wireUnitLength b
  { s with
    fb := s.fb.writeBytes 0 (b :: List.replicate (n - 1) 0x00#8)
    flen := BitVec.ofNat 7 n
    rcur := 0#7
    pstate := .scanning
    port := { s.port with queue := prsNextTransaction s :: s.port.queue } }

end Sys2Proof.Machine
end

