-- ==== Sys2Proof/Machine/Step.lean ====
section
/-! DEFINITION. One step: serve the host's oldest pending access. Each command is one step (00_scope.md R12). -/

namespace Sys2Proof.Machine

/-- One step of MUXCODEC. -/
def step (s : State) : Host.Outcome State Fault Refusal := serveNext s

/-- `s` with an instruction of the opcode table where the next step fetches it: a 32-bit row as the host's next command,
an 8-bit row as the wire byte the parser reads next. -/
def State.withFetchWord (s : State) (nbits w : Nat) : State :=
  if nbits = 32 then s.placeCommand (BitVec.ofNat 32 w)
  else if nbits = 8 then s.placeWire (BitVec.ofNat 8 w)
  else s

end Sys2Proof.Machine
end

