-- ==== Sys2Proof/Machine/Assembler.lean ====
section
/-! DEFINITION. The command assembly of 30_encoding.md R93 as transactions, and the pseudo-instructions of R94. They are
host programs over the commands; MUXCODEC itself has no such instruction. -/

namespace Sys2Proof.Machine

/-- The mnemonic of a command in the assembly text (R93, R71). -/
def commandMnemonic : Opcode → String
  | .reset => "RESET"
  | .fbClear => "FB_CLEAR"
  | .fbPut => "FB_PUT"
  | .fbGet => "FB_GET"
  | .fbSetlen => "FB_SETLEN"
  | .fbAppendRaw => "FB_APPEND_RAW"
  | .fbAppendQ => "FB_APPEND_Q"
  | .qQuant => "Q_QUANT"
  | .qDequant => "Q_DEQUANT"
  | .cmbInit => "CMB_INIT"
  | .cmbDecl => "CMB_DECL"
  | .cmbStep => "CMB_STEP"
  | .cmbEnd => "CMB_END"
  | .prsInit => "PRS_INIT"
  | .prsNext => "PRS_NEXT"

/-- The operand `res=` of the assembly text (R93). -/
def resolutionMnemonic : Resolution → String
  | .int8 => "I8"
  | .int16 => "I16"
  | .int32 => "I32"
  | .float => "F32"
  | .ignore => "IGN"

/-- The operand `qty=` of the assembly text (R93). -/
def quantityMnemonic : Quantity → String
  | .position => "position"
  | .velocity => "velocity"
  | .torque => "torque"
  | .pwm => "pwm"
  | .voltage => "voltage"
  | .temperature => "temperature"
  | .time => "time"
  | .current => "current"

/-- The operands of an assembly line; an omitted one is 0, and an omitted `din=` is the value DIN holds (R93). -/
structure AsmOperands where
  res : Resolution := .int8
  qty : Quantity := .position
  idx : BitVec 6 := 0#6
  byte : Byte := 0#8
  len : BitVec 7 := 0#7
  base : Byte := 0#8
  din : Option Word64 := none
deriving DecidableEq, Repr

/-- The instruction of an assembly line. -/
def assemble (op : Opcode) (a : AsmOperands) : Instr :=
  match op with
  | .reset => .reset
  | .fbClear => .fbClear
  | .fbPut => .fbPut a.idx a.byte
  | .fbGet => .fbGet a.idx
  | .fbSetlen => .fbSetlen a.len
  | .fbAppendRaw => .fbAppendRaw a.res
  | .fbAppendQ => .fbAppendQ a.res a.qty
  | .qQuant => .qQuant a.res a.qty
  | .qDequant => .qDequant a.res a.qty
  | .cmbInit => .cmbInit a.base
  | .cmbDecl => .cmbDecl a.res
  | .cmbStep => .cmbStep
  | .cmbEnd => .cmbEnd
  | .prsInit => .prsInit
  | .prsNext => .prsNext

/-- The transaction of an assembly line, issued in state `s`. -/
def asmLine (op : Opcode) (a : AsmOperands) (s : State) : Transaction :=
  .issue (encodeCommand (assemble op a)) (a.din.getD s.din)

/-- Serve accesses in order, stopping at the first fault or refusal. -/
def serveAll : List Transaction → State → Result State
  | [], s => .next s
  | t :: ts, s =>
    match serve t s with
    | .next u => serveAll ts u
    | .fault r => .fault r
    | .refused r => .refused r

/-- The FB_PUTs of LOADFRAME, the first at index `i`, each with DIN's value `d`. -/
def putLines (d : Word64) : Nat → List Byte → List Transaction
  | _, [] => []
  | i, b :: bs => .issue (encodeCommand (.fbPut (BitVec.ofNat 6 i) b)) d :: putLines d (i + 1) bs

/-- LOADFRAME (R94), for at most 64 bytes, with DIN's value `d`. -/
def loadFrame (d : Word64) (bs : List Byte) : List Transaction :=
  .issue (encodeCommand .fbClear) d ::
    (putLines d 0 bs ++ [.issue (encodeCommand (.fbSetlen (BitVec.ofNat 7 bs.length))) d])

/-- CMB_SETUP (R94): CMB_INIT with the start register in DIN, then one CMB_DECL per resolution. -/
def cmbSetup (base : Byte) (start : Word64) (rs : List Resolution) : List Transaction :=
  .issue (encodeCommand (.cmbInit base)) start :: rs.map fun r => .issue (encodeCommand (.cmbDecl r)) start

/-- CMB_PUT (R94): CMB_STEP, then FB_APPEND_Q if DOUT[0] = 1. -/
def cmbPut (res : Resolution) (qty : Quantity) (v : Word64) (s : State) : Result State :=
  match serve (.issue (encodeCommand .cmbStep) s.din) s with
  | .next t => if t.dout.getLsbD 0 then serve (.issue (encodeCommand (.fbAppendQ res qty)) v) t else .next t
  | .fault r => .fault r
  | .refused r => .refused r

/-- PRS_NEXT at most n times while it yields: the elements, in order, and the state at the end. -/
def collectElements : Nat → State → List Word64 × State
  | 0, s => ([], s)
  | n + 1, s =>
    match serve (prsNextTransaction s) s with
    | .next t =>
      if t.dout.getLsbD 63 then (t.dout :: (collectElements n t).1, (collectElements n t).2) else ([], t)
    | .fault _ => ([], s)
    | .refused _ => ([], s)

/-- PARSE_ALL (R94): PRS_INIT, then PRS_NEXT until DOUT[63] = 0, which the 65th at the latest makes it
(44_parser.md R170). -/
def parseAll (s : State) : List Word64 × State :=
  match serve (.issue (encodeCommand .prsInit) s.din) s with
  | .next t => collectElements 65 t
  | .fault _ => ([], s)
  | .refused _ => ([], s)

end Sys2Proof.Machine
end

