-- ==== Sys2Proof/Safety.lean ====
section
/-! DEFINITION. The terms in which safety is stated: the invariant of the machine's states, and the steps that give a
next state. -/

namespace Sys2Proof.Machine

/-- CCUR is the resolution of the last decision, Ignore before the first (10_state.md R28, 43_combiner.md R141, R143). -/
abbrev State.currentResolutionOk (s : State) : Prop :=
  s.ccur = if s.ci = 0#8 then .ignore else s.declared (s.ci.toNat - 1)

/-- What the spec says of every state a run reaches: the frame buffer is canonical; FLEN and RCUR are at most 64
(00_scope.md R8); a live parser's cursor is inside the frame, and an open run has elements left (10_state.md R29) and
register ids that do not wrap (44_parser.md R162); CI is at most CN (R28); CCUR is as its rules leave it; CBASE is a
legal base (43_combiner.md R141); FAULT is set exactly when ERR names an error (R32). -/
abbrev State.Inv (s : State) : Prop :=
  s.fb.wf = true
  ∧ s.flen.toNat ≤ 64
  ∧ s.rcur.toNat ≤ 64
  ∧ (s.parserLive = true → s.rcur.toNat ≤ s.flen.toNat)
  ∧ (s.pstate = .inRun → 1 ≤ s.prem.toNat ∧ s.pnext.toNat + s.prem.toNat ≤ 510)
  ∧ s.ci.toNat ≤ s.cn.toNat
  ∧ s.currentResolutionOk
  ∧ s.cbase ∈ legalBases
  ∧ (s.fault = true ↔ s.err ≠ .none)

/-- The outcome is a next state. -/
def isNext (o : Host.Outcome State Fault Refusal) : Bool :=
  match o with
  | .next _ => true
  | .fault _ => false
  | .refused _ => false

/-- The commands, as against the wire opcodes. -/
def isCommand (i : Instr) : Bool :=
  match encode i with
  | .command _ => true
  | .wire _ => false

/-- The next state of an outcome, with another frame buffer put into it. -/
def withFrame (m : Memory) : Host.Outcome State Fault Refusal → Host.Outcome State Fault Refusal
  | .next t => .next { t with fb := m }
  | .fault r => .fault r
  | .refused r => .refused r

/-- The rational number an exact finite value is. -/
def Finite.toRat (x : Finite) : ℚ := (if x.neg then -1 else 1) * x.mant * (2 : ℚ) ^ x.exp

/-- The pattern `p` of a format is the exact value `x` rounded to nearest, ties to even, with no flush of subnormals
(00_scope.md R11): infinity from the magnitude `limit` on, and below it a finite pattern with the given sign to which no
finite pattern is nearer, its significand even where another finite value is as near. -/
def CorrectlyRounded {n : Nat} (unpack : BitVec n → FloatValue) (limit x : ℚ) (neg : Bool) (p : BitVec n) : Prop :=
  (limit ≤ |x| → unpack p = .inf neg)
  ∧ (|x| < limit → ∃ q, unpack p = .finite q ∧ q.neg = neg
    ∧ ∀ r z, unpack r = .finite z →
      |x - q.toRat| ≤ |x - z.toRat| ∧ (|x - q.toRat| = |x - z.toRat| → z.toRat ≠ q.toRat → q.mant % 2 = 0))

/-- Correct rounding to binary64: from 2^1024·(1 − 2^−54) on, halfway beyond the largest finite value, it overflows. -/
def CorrectlyRounded64 (x : ℚ) (neg : Bool) (p : Word64) : Prop :=
  CorrectlyRounded unpack64 (2 ^ 1024 * (1 - 1 / 2 ^ 54)) x neg p

/-- Correct rounding to binary32: from 2^128·(1 − 2^−25) on it overflows (41_quantizer.md R104). -/
def CorrectlyRounded32 (x : ℚ) (neg : Bool) (p : Word32) : Prop :=
  CorrectlyRounded unpack32 (2 ^ 128 * (1 - 1 / 2 ^ 25)) x neg p

/-- The header bytes of one group of equal declarations: none for a gap, two in shorthand, three in the long form
(43_combiner.md R143, R148). -/
def groupHeaderSize (g : List Resolution) : Nat :=
  if g.head? = some .ignore then 0 else if g.length ≤ 3 then 2 else 3

/-- The header bytes of a declaration list: the sum over its maximal groups of equal resolutions (R148). -/
def headerTotal (rs : List Resolution) : Nat := ((rs.splitBy (· == ·)).map groupHeaderSize).sum

/-- The resolutions declared: CRES[0..CN−1] (10_state.md R28). -/
def State.declarations (s : State) : List Resolution := s.cres.toList.take s.cn.toNat

end Sys2Proof.Machine
end

