-- ==== Sys2Proof/Certificates/Slice0/Obligations.lean ====
section
/-! DEFINITION. The statements about MUXCODEC. Each docstring names the rules of spec/ it formalises. -/

open Sys2Proof Sys2Proof.Machine

/-! ## Encoding -/

/-- R70–R72 and R80–R90: no bit of an encoding is dropped. -/
def Obligations.DecodeOfEncode : Prop :=
  ∀ i : Instr, i.WellFormed → decode (encode i) = .ok i

/-- R73, R74: a word that decodes is a legal instruction's and is that instruction's only word. -/
def Obligations.LegalWordIsItsEncoding : Prop :=
  ∀ (w : Word32) (i : Instr), decodeCommand w = .ok i → i.WellFormed ∧ encode i = .command w

/-- R80, R81, R90: F = b[7:4] selects the row, RC = b[3:2] and C = b[1:0] are the operands of the multiplex families. -/
def Obligations.WireByteFamilies : Prop :=
  (∀ rc c : BitVec 2,
    decodeWire (0x0#4 ++ (rc ++ c)) = .muxWrite rc c ∧ decodeWire (0x1#4 ++ (rc ++ c)) = .muxRead rc c
    ∧ decodeWire (0x2#4 ++ (rc ++ c)) = .muxReply rc c)
  ∧ (∀ low : BitVec 4,
    decodeWire (0x3#4 ++ low) = .muxError low ∧ decodeWire (0x4#4 ++ low) = .tunnel low
    ∧ decodeWire (0x5#4 ++ low) = .nop low ∧ decodeWire (0x6#4 ++ low) = .unassigned6 low
    ∧ decodeWire (0x7#4 ++ low) = .unassigned7 low ∧ decodeWire (0x8#4 ++ low) = .unassigned8 low
    ∧ decodeWire (0x9#4 ++ low) = .unassigned9 low ∧ decodeWire (0xA#4 ++ low) = .unassignedA low
    ∧ decodeWire (0xB#4 ++ low) = .unassignedB low ∧ decodeWire (0xC#4 ++ low) = .unassignedC low
    ∧ decodeWire (0xD#4 ++ low) = .unassignedD low ∧ decodeWire (0xE#4 ++ low) = .unassignedE low
    ∧ decodeWire (0xF#4 ++ low) = .unassignedF low)

/-- R73: the five checks of a command word, each reached when the earlier ones pass, and no sixth. -/
def Obligations.IllegalWordsInOrder : Prop :=
  ∀ w : Word32,
    ((∀ op : Opcode, op.code ≠ fieldOp w) → decodeCommand w = .error .reservedOpcode)
    ∧ ∀ op : Opcode, op.code = fieldOp w →
      (w &&& ~~~op.usedBits ≠ 0#32 → decodeCommand w = .error .unusedBit)
      ∧ (w &&& ~~~op.usedBits = 0#32 →
        (op ∈ [Opcode.fbAppendRaw, .fbAppendQ, .qQuant, .qDequant, .cmbDecl] → 5 ≤ (fieldRes w).toNat →
          decodeCommand w = .error .reservedResolution)
        ∧ (op = .fbSetlen → 64 < (fieldLen w).toNat → decodeCommand w = .error .lengthAbove64)
        ∧ (op = .cmbInit → fieldBase w ∉ [0x00#8, 0x10#8, 0x20#8] → decodeCommand w = .error .illegalBase)
        ∧ ((op ∈ [Opcode.fbAppendRaw, .fbAppendQ, .qQuant, .qDequant, .cmbDecl] → (fieldRes w).toNat < 5) →
          (op = .fbSetlen → (fieldLen w).toNat ≤ 64) → (op = .cmbInit → fieldBase w ∈ [0x00#8, 0x10#8, 0x20#8]) →
          ∃ i, decodeCommand w = .ok i))

/-- R72, R93: a few words written out from the spec decode to the instruction they stand for. -/
def Obligations.SpecWordsDecode : Prop :=
  decodeCommand 0x7F030003#32 = .ok (.fbPut 3#6 0x7F#8)
  ∧ decodeCommand 0x00150005#32 = .ok (.fbSetlen 21#7)
  ∧ decodeCommand 0x00000907#32 = .ok (.fbAppendQ .int16 .velocity)
  ∧ decodeCommand 0x00003A10#32 = .ok (.qQuant .int32 .current)
  ∧ decodeCommand 0x00100020#32 = .ok (.cmbInit 0x10#8)
  ∧ decodeWire 0x2C#8 = .muxReply 3#2 0#2

/-! ## The step, illegal words and the fault state -/

/-- R33, R12: when the host's oldest access is a command whose word decodes to `i`, the step takes the access, writes
DIN and runs `i`. The queue is the model's (log entry 1). -/
def Obligations.StepRunsDecodedCommand : Prop :=
  ∀ (s : State) (w : Word32) (d : Word64) (rest : List Transaction) (i : Instr),
    s.port.queue = .issue w d :: rest → s.fault = false → decodeCommand w = .ok i →
    step s = exec i { s.withQueue rest with din := d }

/-- R73, R200: an illegal word raises IllegalCommand with no other effect. The queue is the model's (log entry 1). -/
def Obligations.IllegalWordRaises : Prop :=
  ∀ (s : State) (w : Word32) (d : Word64) (rest : List Transaction) (why : Reject),
    s.port.queue = .issue w d :: rest → s.fault = false → decodeCommand w = .error why →
    step s = .next { s.withQueue rest with din := d, fault := true, err := .illegalCommand }

/-- R204, R33, R190: while FAULT = 1 a word other than exactly 0x00000001 has no effect (the transaction itself has written
DIN), and 0x00000001 resets. The queue is the model's (log entry 1). -/
def Obligations.FaultedWordHasNoEffect : Prop :=
  ∀ (s : State) (w : Word32) (d : Word64) (rest : List Transaction),
    s.port.queue = .issue w d :: rest → s.fault = true →
    (w ≠ 0x00000001#32 → step s = .next { s.withQueue rest with din := d })
    ∧ (w = 0x00000001#32 → step s = .next (s.withQueue rest).resetAll)

/-- R204: the meaning of every command but RESET changes nothing while FAULT = 1. -/
def Obligations.FaultedCommandChangesNothing : Prop :=
  ∀ (i : Instr) (s : State), isCommand i = true → i ≠ .reset → s.fault = true → exec i s = .next s

/-- R203, R32: raising an error sets FAULT and ERR and nothing else, and only the first error is recorded. -/
def Obligations.RaiseRecordsFirstError : Prop :=
  ∀ (e : ErrorKind) (s : State),
    (s.fault = false → raise e s = .next { s with fault := true, err := e })
    ∧ (s.fault = true → raise e s = .next s)

/-- R207, R32: a step from the fault state keeps FAULT and the first error's code, or restores the reset state. -/
def Obligations.FaultLeavesOnlyByReset : Prop :=
  ∀ s t : State, s.fault = true → step s = .next t →
    (t.fault = true ∧ t.err = s.err) ∨ (∃ q, t = (s.withQueue q).resetAll)

/-! ## Reset and the invariant -/

/-- R230, R190: the reset state, variable by variable; and the RESET command in every state, the fault state included,
and the hardware reset restore it. The parameters are those of R7 with the table of R101, and stay: they are no state (R231).
That State carries them (log entry 7), the host's queue (log entry 1) and the hardware reset as one of its entries (log
entry 12) are the model's. -/
def Obligations.ResetRestoresEveryVariable : Prop :=
  ((∀ a, a < 64 → State.reset.readByte a = 0x00#8) ∧ State.reset.flen = 0#7 ∧ State.reset.rcur = 0#7
    ∧ State.reset.din = 0#64 ∧ State.reset.dout = 0#64 ∧ State.reset.fault = false ∧ State.reset.err = .none
    ∧ State.reset.cact = false ∧ State.reset.cbase = 0#8 ∧ State.reset.cstart = 0#16 ∧ State.reset.cn = 0#8
    ∧ State.reset.ci = 0#8 ∧ State.reset.ccur = .ignore ∧ (∀ k, k < 255 → State.reset.cres[k]? = some .ignore)
    ∧ State.reset.pstate = .idle ∧ State.reset.prem = 0#8 ∧ State.reset.pres = 0#2 ∧ State.reset.pnext = 0#16
    ∧ State.reset.statusView = 0x00000400#32 ∧ State.reset.lensView = 0#32 ∧ State.reset.auxView = 0#64)
  ∧ (State.reset.cfg.parseHighReg = .asByte ∧ State.reset.cfg.nanF64.bits = 0x7FF8000000000000#64
    ∧ State.reset.cfg.nanNarrow = .keepPayload
    ∧ ∀ q : Quantity,
      ((State.reset.cfg.scale.entry q .int8).bits, (State.reset.cfg.scale.entry q .int16).bits,
        (State.reset.cfg.scale.entry q .int32).bits) = match q with
      | .position => (0x3F847AE147AE147B#64, 0x3F1A36E2EB1C432D#64, 0x3EE4F8B588E368F1#64)
      | .velocity => (0x3FB999999999999A#64, 0x3F30624DD2F1A9FC#64, 0x3EE4F8B588E368F1#64)
      | .torque => (0x3FE0000000000000#64, 0x3F847AE147AE147B#64, 0x3F50624DD2F1A9FC#64)
      | .pwm => (0x3F80204081020408#64, 0x3F00002000400080#64, 0x3E00000000200000#64)
      | .voltage => (0x3FE0000000000000#64, 0x3FB999999999999A#64, 0x3F50624DD2F1A9FC#64)
      | .temperature => (0x3FF0000000000000#64, 0x3FB999999999999A#64, 0x3F50624DD2F1A9FC#64)
      | .time => (0x3F847AE147AE147B#64, 0x3F50624DD2F1A9FC#64, 0x3EB0C6F7A0B5ED8D#64)
      | .current => (0x3FF0000000000000#64, 0x3FB999999999999A#64, 0x3F50624DD2F1A9FC#64))
  ∧ (∀ s : State, exec .reset s = .next { State.reset with cfg := s.cfg, port := s.port })
  ∧ (∀ s : State, serve .hardwareReset s = .next { State.reset with cfg := s.cfg, port := s.port })

/-- The invariant holds after reset. -/
def Obligations.ResetSatisfiesInvariant : Prop := State.reset.Inv

/-- Every step keeps the invariant (R8, R28, R29, R32, R51, R141, R143, R162). -/
def Obligations.StepKeepsInvariant : Prop :=
  ∀ s t : State, s.Inv → step s = .next t → t.Inv

/-- From every state the invariant admits, a step gives a next state: no fault, no refusal (R12, R231, R236). -/
def Obligations.StepAlwaysCompletes : Prop :=
  ∀ s : State, s.Inv → ∃ t, step s = .next t

/-! ## The byte port and the frame writer -/

/-- R121: FB_CLEAR empties the frame and ends the parser; no byte and no combiner variable changes. -/
def Obligations.FbClearEmptiesFrame : Prop :=
  ∀ s : State, s.fault = false → exec .fbClear s = .next { s with flen := 0#7, rcur := 0#7, pstate := .idle }

/-- R122: FB_PUT stores one byte; every other byte and every other variable is unchanged. -/
def Obligations.FbPutStoresOneByte : Prop :=
  ∀ (s : State) (idx : BitVec 6) (byte : Byte), s.fault = false → s.parserLive = false → s.fb.wf = true →
    ∃ t, exec (.fbPut idx byte) s = .next t ∧ t = { s with fb := t.fb }
      ∧ t.readByte idx.toNat = byte ∧ ∀ a, a ≠ idx.toNat → t.readByte a = s.readByte a

/-- R123, R53: FB_GET puts the stored byte into DOUT, also while the parser is live and beyond FLEN, and changes
nothing else. -/
def Obligations.FbGetReadsOneByte : Prop :=
  ∀ (s : State) (idx : BitVec 6), s.fault = false →
    exec (.fbGet idx) s = .next { s with dout := (s.readByte idx.toNat).setWidth 64 }

/-- R124: FB_SETLEN sets FLEN alone; no byte and not RCUR. -/
def Obligations.FbSetlenSetsLength : Prop :=
  ∀ (s : State) (len : BitVec 7), s.fault = false → s.parserLive = false → len.toNat ≤ 64 →
    exec (.fbSetlen len) s = .next { s with flen := len }

/-- R120: the five mutating commands raise IllegalCommand while the parser is live, before every other error of the
command; FB_CLEAR is not guarded. -/
def Obligations.MutationGuardComesFirst : Prop :=
  ∀ s : State, s.fault = false → (s.pstate = .scanning ∨ s.pstate = .inRun) →
    (∀ idx byte, exec (.fbPut idx byte) s = .next { s with fault := true, err := .illegalCommand })
    ∧ (∀ len, exec (.fbSetlen len) s = .next { s with fault := true, err := .illegalCommand })
    ∧ (∀ res, exec (.fbAppendRaw res) s = .next { s with fault := true, err := .illegalCommand })
    ∧ (∀ res qty, exec (.fbAppendQ res qty) s = .next { s with fault := true, err := .illegalCommand })
    ∧ exec .cmbStep s = .next { s with fault := true, err := .illegalCommand }
    ∧ exec .fbClear s = .next { s with flen := 0#7, rcur := 0#7, pstate := .idle }

/-- R126, R54, R55: FB_APPEND_RAW stores the low bytes of DIN at FLEN, little-endian, and moves FLEN past them; every
byte outside them and every other variable is unchanged. -/
def Obligations.AppendRawStoresLittleEndian : Prop :=
  ∀ (s : State) (res : Resolution) (w : Nat),
    (res, w) ∈ [(Resolution.int8, 1), (.int16, 2), (.int32, 4), (.float, 4)] →
    s.fault = false → s.parserLive = false → s.fb.wf = true → s.flen.toNat + w ≤ 64 →
    ∃ t, exec (.fbAppendRaw res) s = .next t ∧ t = { s with fb := t.fb, flen := t.flen }
      ∧ t.flen.toNat = s.flen.toNat + w
      ∧ (∀ k, k < w → t.readByte (s.flen.toNat + k) = (s.din >>> (8 * k)).setWidth 8)
      ∧ ∀ a, (a < s.flen.toNat ∨ s.flen.toNat + w ≤ a) → t.readByte a = s.readByte a

/-- R127, R54: FB_APPEND_Q appends, little-endian, the bytes that Q_QUANT with the same operands writes to DOUT; every
byte outside them and every other variable (DOUT too) is unchanged. -/
def Obligations.AppendQStoresWhatQuantGives : Prop :=
  ∀ (s : State) (res : Resolution) (qty : Quantity) (w : Nat),
    (res, w) ∈ [(Resolution.int8, 1), (.int16, 2), (.int32, 4), (.float, 4)] →
    s.fault = false → s.parserLive = false → s.fb.wf = true → s.flen.toNat + w ≤ 64 →
    ∃ q t, exec (.qQuant res qty) s = .next q
      ∧ exec (.fbAppendQ res qty) s = .next t ∧ t = { s with fb := t.fb, flen := t.flen }
      ∧ t.flen.toNat = s.flen.toNat + w
      ∧ (∀ k, k < w → t.readByte (s.flen.toNat + k) = (q.dout >>> (8 * k)).setWidth 8)
      ∧ ∀ a, (a < s.flen.toNat ∨ s.flen.toNat + w ≤ a) → t.readByte a = s.readByte a

/-- R125, R126, R127, R206: the appends raise InvalidResolution for Ignore, even into a full frame, and otherwise
BufferOverflow when the bytes do not fit; nothing is written. -/
def Obligations.AppendErrorsInOrder : Prop :=
  ∀ s : State, s.fault = false → s.parserLive = false →
    exec (.fbAppendRaw .ignore) s = .next { s with fault := true, err := .invalidResolution }
    ∧ (∀ qty, exec (.fbAppendQ .ignore qty) s = .next { s with fault := true, err := .invalidResolution })
    ∧ ∀ (res : Resolution) (w : Nat),
      (res, w) ∈ [(Resolution.int8, 1), (.int16, 2), (.int32, 4), (.float, 4)] → 64 < s.flen.toNat + w →
      exec (.fbAppendRaw res) s = .next { s with fault := true, err := .bufferOverflow }
      ∧ ∀ qty, exec (.fbAppendQ res qty) s = .next { s with fault := true, err := .bufferOverflow }

/-- R54, R10: what an append of w bytes stores, the parser's little-endian read at the same index gives back. -/
def Obligations.LittleEndianReadAfterAppend : Prop :=
  ∀ (s : State) (w : Nat) (v : Word64), w ≤ 4 → s.fb.wf = true → s.flen.toNat + w ≤ 64 →
    ((s.append (bytesLE w v)).fb.readLE s.flen.toNat w).toNat = v.toNat % 2 ^ (8 * w)

/-! ## The quantizer -/

/-- R102, R108: Q_QUANT at an integer resolution: the sentinel for NaN and the infinities; for a finite value the quotient
by the scale, clamped to ±MAX and truncated toward zero; the two's-complement pattern zero-extended to DOUT. -/
def Obligations.QuantizeInteger : Prop :=
  ∀ (s : State) (qty : Quantity) (res : Resolution) (r : IntRes),
    (res, r) ∈ [(Resolution.int8, IntRes.int8), (.int16, .int16), (.int32, .int32)] → s.fault = false →
    ∃ k : Int,
      exec (.qQuant res qty) s = .next { s with dout := (BitVec.ofInt (8 * intSize r) k).setWidth 64 }
      ∧ (isNaN64 s.din = true ∨ isInf64 s.din = true → k = -intMax r - 1)
      ∧ ∀ v, unpack64 s.din = .finite v → ∀ c, unpack64 (s.cfg.scale.entry qty r).bits = .finite c →
        let x := unpack64 (f64Div v c)
        (x.ltInt (-intMax r) = true → k = -intMax r)
        ∧ (x.gtInt (intMax r) = true → k = intMax r)
        ∧ (x.ltInt (-intMax r) = false → x.gtInt (intMax r) = false → ∃ y, x = .finite y ∧ k = y.trunc)

/-- R103, R104, R108: Q_QUANT at Float converts to binary32 with no scaling and no sentinel: a NaN to the binary32 NaN
that the parameter NAN_NARROW gives (I10), by default R104's; the infinities to 0x7F800000 and 0xFF800000; a finite value
correctly rounded, with its sign. The two forms of NAN_NARROW are the model's (log entry 8). -/
def Obligations.QuantizeFloat : Prop :=
  ∀ (s : State) (qty : Quantity), s.fault = false →
    ∃ u : Word32, exec (.qQuant .float qty) s = .next { s with dout := u.setWidth 64 }
      ∧ (isNaN64 s.din = true → u = s.cfg.nanNarrow.apply s.din ∧ isNaN32 u = true
        ∧ (s.cfg.nanNarrow = .keepPayload →
          u = s.din.extractLsb' 63 1 ++ 0xFF#8 ++ 1#1 ++ s.din.extractLsb' 29 22))
      ∧ (unpack64 s.din = .inf false → u = 0x7F800000#32)
      ∧ (unpack64 s.din = .inf true → u = 0xFF800000#32)
      ∧ ∀ v, unpack64 s.din = .finite v → CorrectlyRounded32 v.toRat v.neg u

/-- R105, R106, R107, R109: Q_DEQUANT at Float widens DIN[31:0]: a NaN keeps sign and payload and gets the quiet bit, an
infinity stays one, a finite value keeps its sign and is exact. At an integer resolution it writes NAN_F64 for the sentinel,
else the product of the signed payload and the scale, correctly rounded (R11; a zero payload gives +0). -/
def Obligations.DequantizeCommand : Prop :=
  ∀ (s : State) (qty : Quantity), s.fault = false →
    (∃ (f : Word32) (d : Word64), f = s.din.setWidth 32
      ∧ exec (.qDequant .float qty) s = .next { s with dout := d }
      ∧ (isNaN32 f = true → d = f.extractLsb' 31 1 ++ 0x7FF#11 ++ 1#1 ++ f.extractLsb' 0 22 ++ 0#29)
      ∧ (∀ neg, unpack32 f = .inf neg → unpack64 d = .inf neg)
      ∧ ∀ x, unpack32 f = .finite x → ∃ y, unpack64 d = .finite y ∧ y.neg = x.neg ∧ y.toRat = x.toRat)
    ∧ ∀ (res : Resolution) (r : IntRes) (k : Int),
      (res, r) ∈ [(Resolution.int8, IntRes.int8), (.int16, .int16), (.int32, .int32)] →
      k = (s.din.setWidth (8 * intSize r)).toInt →
      ∃ d, exec (.qDequant res qty) s = .next { s with dout := d }
        ∧ (k = -intMax r - 1 → d = s.cfg.nanF64.bits)
        ∧ (k ≠ -intMax r - 1 → ∀ c, unpack64 (s.cfg.scale.entry qty r).bits = .finite c →
          CorrectlyRounded64 (k * c.toRat) (decide (k < 0)) d)

/-- R108, R109: at Ignore both quantizer commands raise InvalidResolution and leave DOUT. -/
def Obligations.QuantizerRefusesIgnore : Prop :=
  ∀ (s : State) (qty : Quantity), s.fault = false →
    exec (.qQuant .ignore qty) s = .next { s with fault := true, err := .invalidResolution }
    ∧ exec (.qDequant .ignore qty) s = .next { s with fault := true, err := .invalidResolution }

/-- R110, R102: NaN and the infinities, and no finite value, quantize to the sentinel; a finite value stays within
±MAX. -/
def Obligations.SentinelOnlyForNonFinite : Prop :=
  ∀ (v : Word64) (r : IntRes) (c : Config.Scale),
    (isFinite64 v = false → quantizeInt v r c = -intMax r - 1)
    ∧ (isFinite64 v = true → -intMax r ≤ quantizeInt v r c ∧ quantizeInt v r c ≤ intMax r)

/-- R112: at every integer resolution, quantizing NaN or an infinity and dequantizing the result in DOUT gives a NaN. -/
def Obligations.SentinelRoundTrip : Prop :=
  ∀ (s q : State) (qty : Quantity) (res : Resolution), res ∈ [Resolution.int8, .int16, .int32] → s.fault = false →
    isFinite64 s.din = false → exec (.qQuant res qty) s = .next q →
    ∃ t, exec (.qDequant res qty) { q with din := q.dout } = .next t ∧ isNaN64 t.dout = true

/-- R109: the bits of DIN above the payload are ignored. -/
def Obligations.DequantizeIgnoresUpperBits : Prop :=
  ∀ (s : State) (qty : Quantity) (res : Resolution) (w : Nat) (d : Word64),
    (res, w) ∈ [(Resolution.int8, 1), (.int16, 2), (.int32, 4), (.float, 4)] → s.fault = false →
    d.setWidth (8 * w) = s.din.setWidth (8 * w) →
    ∃ x, exec (.qDequant res qty) s = .next { s with dout := x }
      ∧ exec (.qDequant res qty) { s with din := d } = .next { s with din := d, dout := x }

/-- R111, R105: at Float, a value that binary32 represents survives widening and narrowing exactly. -/
def Obligations.FloatRoundTripExact : Prop :=
  ∀ (p : Config.Params) (f : Word32), isNaN32 f = false → quantizeFloat p (dequantizeFloat f) = f

/-- R11: the rounding of one place: at most half a place away, and even at exactly half. -/
def Obligations.NearestEvenIsNearest : Prop :=
  ∀ num den : Nat, 0 < den →
    2 * |(num : Int) - nearestEven num den * den| ≤ den
    ∧ (2 * |(num : Int) - nearestEven num den * den| = den → nearestEven num den % 2 = 0)

/-- R11, R102: the binary64 quotient of finite values, the divisor not 0, is the exact quotient correctly rounded: nearest,
ties to even, infinity exactly from the overflow threshold on, its sign the exclusive or of the signs. -/
def Obligations.DivisionIsCorrectlyRounded : Prop :=
  ∀ a b : Finite, b.mant ≠ 0 → CorrectlyRounded64 (a.toRat / b.toRat) (a.neg != b.neg) (f64Div a b)

/-! ## The combiner -/

/-- R141, R206: CMB_INIT starts a combiner and touches nothing else; over an unfinished one it raises
InternalContractViolation. -/
def Obligations.CmbInitStarts : Prop :=
  ∀ (s : State) (base : Byte), s.fault = false → base ∈ [0x00#8, 0x10#8, 0x20#8] →
    (s.cact = false ∨ s.ci = s.cn → exec (.cmbInit base) s = .next { s with
      cact := true, cbase := base, cstart := s.din.setWidth 16, cn := 0#8, ci := 0#8, ccur := .ignore })
    ∧ (s.cact = true → s.ci ≠ s.cn →
      exec (.cmbInit base) s = .next { s with fault := true, err := .internalContractViolation })

/-- R142: CMB_DECL appends one declaration; no other entry of CRES and no other variable changes. -/
def Obligations.CmbDeclAppends : Prop :=
  ∀ (s : State) (res : Resolution), s.fault = false → s.cact = true → s.ci = 0#8 → s.cn.toNat < 255 →
    ∃ t, exec (.cmbDecl res) s = .next t ∧ t = { s with cres := t.cres, cn := t.cn }
      ∧ t.cn.toNat = s.cn.toNat + 1 ∧ t.declared s.cn.toNat = res
      ∧ ∀ k, k ≠ s.cn.toNat → t.declared k = s.declared k

/-- R143, its steps 2 and 3 without a header: the same resolution again, or a gap. -/
def Obligations.CmbStepWithoutHeader : Prop :=
  ∀ s : State, s.fault = false → s.parserLive = false → s.cact = true → s.ci.toNat < s.cn.toNat →
    (s.declared s.ci.toNat = s.ccur ∨ s.declared s.ci.toNat = .ignore) →
    exec .cmbStep s = .next { s with
      ccur := s.declared s.ci.toNat
      dout := if s.declared s.ci.toNat = .ignore then 0#64 else 1#64
      ci := s.ci + 1#8 }

/-- R143, R144, R85: a change to a transmitted resolution appends the header at FLEN: the opcode, the count byte when the
run is longer than 3, the register id. Every byte outside the header and every other variable is unchanged. -/
def Obligations.CmbStepEmitsHeader : Prop :=
  ∀ (s : State) (r : Resolution) (count h : Nat),
    s.fault = false → s.parserLive = false → s.cact = true → s.ci.toNat < s.cn.toNat → s.fb.wf = true →
    r = s.declared s.ci.toNat → r ≠ s.ccur → r ≠ .ignore → count = s.runLength s.ci.toNat →
    h = (if count ≤ 3 then 2 else 3) → s.flen.toNat + h ≤ 64 → s.cstart.toNat + s.ci.toNat ≤ 127 →
    ∃ t, exec .cmbStep s = .next t
      ∧ t = { s with fb := t.fb, flen := t.flen, ccur := r, dout := 1#64, ci := s.ci + 1#8 }
      ∧ t.flen.toNat = s.flen.toNat + h
      ∧ t.readByte s.flen.toNat
        = s.cbase ||| r.wireCode.setWidth 8 <<< 2 ||| (if count ≤ 3 then BitVec.ofNat 8 count else 0#8)
      ∧ (3 < count → t.readByte (s.flen.toNat + 1) = BitVec.ofNat 8 count)
      ∧ t.readByte (s.flen.toNat + h - 1) = BitVec.ofNat 8 (s.cstart.toNat + s.ci.toNat)
      ∧ ∀ a, (a < s.flen.toNat ∨ s.flen.toNat + h ≤ a) → t.readByte a = s.readByte a

/-- R146: the header's checks in their order; when one raises, nothing is appended and no combiner variable changes. -/
def Obligations.HeaderChecksInOrder : Prop :=
  ∀ (s : State) (count h reg : Nat),
    s.fault = false → s.parserLive = false → s.cact = true → s.ci.toNat < s.cn.toNat →
    s.declared s.ci.toNat ≠ s.ccur → s.declared s.ci.toNat ≠ .ignore → count = s.runLength s.ci.toNat →
    h = (if count ≤ 3 then 1 else 2) → reg = s.cstart.toNat + s.ci.toNat →
    (64 < s.flen.toNat + h → exec .cmbStep s = .next { s with fault := true, err := .bufferOverflow })
    ∧ (s.flen.toNat + h ≤ 64 → 127 < reg →
      exec .cmbStep s = .next { s with fault := true, err := .unsupportedAddress })
    ∧ (s.flen.toNat + h ≤ 64 → reg ≤ 127 → 64 < s.flen.toNat + h + 1 →
      exec .cmbStep s = .next { s with fault := true, err := .bufferOverflow })

/-- R145: CMB_END ends a finished combiner, and raises InternalContractViolation on an unfinished one. -/
def Obligations.CmbEndEnds : Prop :=
  ∀ s : State, s.fault = false → s.cact = true →
    (s.ci = s.cn → exec .cmbEnd s = .next { s with cact := false })
    ∧ (s.ci ≠ s.cn → exec .cmbEnd s = .next { s with fault := true, err := .internalContractViolation })

/-- R142, R143, R145, R201: the combiner commands outside their states: IllegalCommand with no combiner, for a declaration
after a decision or past N_MAX; InternalContractViolation for a step past the last register. -/
def Obligations.CombinerMisuseRaises : Prop :=
  ∀ s : State, s.fault = false →
    (s.cact = false →
      (∀ res, exec (.cmbDecl res) s = .next { s with fault := true, err := .illegalCommand })
      ∧ exec .cmbStep s = .next { s with fault := true, err := .illegalCommand }
      ∧ exec .cmbEnd s = .next { s with fault := true, err := .illegalCommand })
    ∧ (s.cact = true → s.ci ≠ 0#8 ∨ s.cn = 255#8 →
      ∀ res, exec (.cmbDecl res) s = .next { s with fault := true, err := .illegalCommand })
    ∧ (s.cact = true → s.parserLive = false → s.ci = s.cn →
      exec .cmbStep s = .next { s with fault := true, err := .internalContractViolation })

/-- R140: the run length is the largest L with all of the L declarations from i on equal, inside the CN declared. -/
def Obligations.RunLengthIsMaximal : Prop :=
  ∀ (s : State) (i : Nat), i < s.cn.toNat →
    1 ≤ s.runLength i ∧ i + s.runLength i ≤ s.cn.toNat
    ∧ (∀ k, k < s.runLength i → s.declared (i + k) = s.declared i)
    ∧ (i + s.runLength i < s.cn.toNat → s.declared (i + s.runLength i) ≠ s.declared i)

/-- R144, R82–R84: the header opcode byte is the wire opcode of the base's family with the resolution's code and the
inline count, 0 in the long form. -/
def Obligations.HeaderOpcodeIsWireOpcode : Prop :=
  ∀ (r : Resolution) (count : Nat), r ≠ .ignore → 1 ≤ count →
    let c : BitVec 2 := if count ≤ 3 then BitVec.ofNat 2 count else 0#2
    decodeWire (headerOpcode 0x00#8 r count) = .muxWrite r.wireCode c
    ∧ decodeWire (headerOpcode 0x10#8 r count) = .muxRead r.wireCode c
    ∧ decodeWire (headerOpcode 0x20#8 r count) = .muxReply r.wireCode c

/-- R148: stepping a combiner through all its declarations appends exactly two header bytes for every run of at most
three registers and three for every longer one. Only a run's first register is checked against 127: a run may go past it (R143). -/
def Obligations.CombinerHeaderTotal : Prop :=
  ∀ s : State, s.fault = false → s.parserLive = false → s.cact = true → s.ci = 0#8 → s.ccur = .ignore →
    (∀ k, k < s.cn.toNat → s.declared k ≠ .ignore → k = 0 ∨ s.declared (k - 1) ≠ s.declared k →
      s.cstart.toNat + k ≤ 127) →
    s.flen.toNat + headerTotal s.declarations ≤ 64 →
    ∃ t, serveAll (List.replicate s.cn.toNat (.issue 0x00000022#32 s.din)) s = .next t
      ∧ t.fault = false ∧ t.ci = s.cn ∧ t.cn = s.cn
      ∧ t.flen.toNat = s.flen.toNat + headerTotal s.declarations

/-! ## The parser -/

/-- R161: PRS_INIT creates a fresh parser in every parser state; the frame and the combiner are untouched. -/
def Obligations.PrsInitCreatesParser : Prop :=
  ∀ s : State, s.fault = false →
    exec .prsInit s = .next { s with rcur := 0#7, pstate := .scanning, prem := 0#8, pres := 0#2, pnext := 0#16 }

/-- R169, R162: PRS_NEXT with no parser raises IllegalCommand; after the end of the sequence it writes DOUT = 0 and
changes nothing else. -/
def Obligations.PrsNextOutsideSequence : Prop :=
  ∀ s : State, s.fault = false →
    (s.pstate = .idle → exec .prsNext s = .next { s with fault := true, err := .illegalCommand })
    ∧ (s.pstate = .exhausted ∨ s.pstate = .error → exec .prsNext s = .next { s with dout := 0#64 })

/-- R162, R164: PRS_NEXT in a run yields the next element when its payload is in the frame, and otherwise ends the
sequence without consuming a byte. The premises on PREM and PNEXT are part of the machine's invariant. -/
def Obligations.PrsNextInRun : Prop :=
  ∀ (s : State) (w : Nat), s.fault = false → s.pstate = .inRun → s.flen.toNat ≤ 64 → s.prem ≠ 0#8 →
    s.pnext.toNat < 65535 → (s.pres, w) ∈ [(0#2, 1), (1#2, 2), (2#2, 4), (3#2, 4)] →
    (s.rcur.toNat + w ≤ s.flen.toNat →
      exec .prsNext s = .next { s with
        rcur := s.rcur + BitVec.ofNat 7 w
        dout := element s.pnext s.pres (s.fb.readLE s.rcur.toNat w)
        pnext := s.pnext + 1#16
        prem := s.prem - 1#8
        pstate := if s.prem = 1#8 then .scanning else .inRun })
    ∧ (s.flen.toNat < s.rcur.toNat + w → exec .prsNext s = .next { s with pstate := .exhausted, dout := 0#64 })

/-- R168, R54: the fields of a yielded element; payload byte k is the frame's byte at RCUR + k, and the bytes above the
payload are 0. -/
def Obligations.ElementFields : Prop :=
  (∀ (id : BitVec 16) (rc : BitVec 2) (u : Word32),
    (element id rc u).extractLsb' 63 1 = 1#1 ∧ (element id rc u).extractLsb' 50 13 = 0#13
    ∧ (element id rc u).extractLsb' 48 2 = rc ∧ (element id rc u).extractLsb' 32 16 = id
    ∧ (element id rc u).extractLsb' 0 32 = u)
  ∧ ∀ (m : Memory) (a w k : Nat), w ≤ 4 → k < 4 →
    (m.readLE a w).extractLsb' (8 * k) 8 = if k < w then m.read (a + k) else 0#8

/-- R162, R163, R165, R167: PRS_NEXT while scanning runs the wire opcode at the cursor, and goes on unless that ended the
sequence; at the end of the frame it ends the sequence (R164). -/
def Obligations.PrsNextRunsWireOpcode : Prop :=
  ∀ s : State, s.fault = false → s.pstate = .scanning → s.flen.toNat ≤ 64 →
    (s.flen.toNat ≤ s.rcur.toNat → exec .prsNext s = .next { s with pstate := .exhausted, dout := 0#64 })
    ∧ (s.rcur.toNat < s.flen.toNat →
      ∃ t, exec (decodeWire (s.readByte s.rcur.toNat)) s = .next t
        ∧ exec .prsNext s = if t.parserLive then exec .prsNext t else .next t)

/-- R163, R167, R82, R83, R87–R90: a filler is consumed and skipped; every other opcode but a reply is consumed and ends
the sequence with ERROR. Neither raises an error (R202). -/
def Obligations.FillerAndFramingErrors : Prop :=
  ∀ s : State,
    (∀ low, exec (.nop low) s = .next { s with rcur := s.rcur + 1#7 })
    ∧ (∀ rc c, exec (.muxWrite rc c) s = .next { s with rcur := s.rcur + 1#7, pstate := .error, dout := 0#64 }
      ∧ exec (.muxRead rc c) s = .next { s with rcur := s.rcur + 1#7, pstate := .error, dout := 0#64 })
    ∧ ∀ (low : BitVec 4) (i : Instr),
      i ∈ [Instr.muxError low, .tunnel low, .unassigned6 low, .unassigned7 low, .unassigned8 low, .unassigned9 low,
        .unassignedA low, .unassignedB low, .unassignedC low, .unassignedD low, .unassignedE low, .unassignedF low] →
      exec i s = .next { s with rcur := s.rcur + 1#7, pstate := .error, dout := 0#64 }

/-- R165, R166, R85: a reply opcode opens a run: the count is C, or the explicit count byte when C is 0; the next byte is
the start register. Under PARSE_HIGH_REG = STOP a start register of 0x80 or above ends the sequence with ERROR. -/
def Obligations.ReplyOpensRun : Prop :=
  ∀ (s : State) (rc c : BitVec 2) (n : Nat) (count reg : Byte), s.flen.toNat ≤ 64 →
    (c ≠ 0#2 → n = 2 ∧ count = c.setWidth 8) →
    (c = 0#2 → n = 3 ∧ count = s.readByte (s.rcur.toNat + 1) ∧ count ≠ 0#8) →
    s.rcur.toNat + n ≤ s.flen.toNat → reg = s.readByte (s.rcur.toNat + n - 1) →
    (s.cfg.parseHighReg = .asByte ∨ reg.toNat < 0x80 →
      exec (.muxReply rc c) s = .next { s with
        rcur := s.rcur + BitVec.ofNat 7 n, pres := rc, pnext := reg.setWidth 16, prem := count, pstate := .inRun })
    ∧ (s.cfg.parseHighReg = .stop → 0x80 ≤ reg.toNat →
      exec (.muxReply rc c) s = .next { s with
        rcur := s.rcur + BitVec.ofNat 7 n, pstate := .error, dout := 0#64 })

/-- R164, R165: a reply opcode whose count byte or start-register byte is missing ends the sequence with EXHAUSTED and
RCUR at FLEN; an explicit count of 0 is an empty command, after which the scan goes on. -/
def Obligations.ReplyTruncatedOrEmpty : Prop :=
  ∀ (s : State) (rc c : BitVec 2), s.flen.toNat ≤ 64 →
    (s.rcur.toNat + 1 = s.flen.toNat →
      exec (.muxReply rc c) s = .next { s with rcur := s.flen, pstate := .exhausted, dout := 0#64 })
    ∧ (s.rcur.toNat + 2 = s.flen.toNat → s.readByte (s.rcur.toNat + 1) ≠ 0#8 →
      exec (.muxReply rc 0#2) s = .next { s with rcur := s.flen, pstate := .exhausted, dout := 0#64 })
    ∧ (s.rcur.toNat + 2 ≤ s.flen.toNat → s.readByte (s.rcur.toNat + 1) = 0#8 →
      exec (.muxReply rc 0#2) s = .next { s with rcur := s.rcur + 2#7 })

/-- R171, R172: a run of n registers whose payloads are in the frame yields start, start + 1, …, start + n − 1 in that
order, each with the run's resolution and its own payload, and leaves the parser scanning right after them. -/
def Obligations.RunYieldsConsecutiveRegisters : Prop :=
  ∀ (s : State) (n w : Nat), s.fault = false → s.pstate = .inRun → s.flen.toNat ≤ 64 → s.prem.toNat = n → 0 < n →
    s.pnext.toNat + n ≤ 510 → w = wireSize s.pres → s.rcur.toNat + n * w ≤ s.flen.toNat →
    ∃ t, collectElements n s
        = ((List.range n).map fun k =>
            element (s.pnext + BitVec.ofNat 16 k) s.pres (s.fb.readLE (s.rcur.toNat + k * w) w), t)
      ∧ t.rcur.toNat = s.rcur.toNat + n * w ∧ t.pstate = .scanning ∧ t.fb = s.fb ∧ t.flen = s.flen
      ∧ t.pnext.toNat = s.pnext.toNat + n ∧ t.fault = false

/-- R170, R94, R202: PARSE_ALL over any frame yields at most 64 elements and has ended the sequence, with no error and
the frame untouched. -/
def Obligations.ParseAllEnds : Prop :=
  ∀ s : State, s.Inv → s.fault = false →
    (parseAll s).1.length ≤ 64 ∧ ((parseAll s).2.pstate = .exhausted ∨ (parseAll s).2.pstate = .error)
    ∧ (parseAll s).2.dout = 0#64 ∧ (parseAll s).2.fault = false
    ∧ (parseAll s).2.fb = s.fb ∧ (parseAll s).2.flen = s.flen

/-- R202, R58: whatever the frame holds, a PRS_NEXT over an existing parser raises no error, and it changes only DOUT,
RCUR and the parser's variables. -/
def Obligations.FrameContentNeverFaults : Prop :=
  ∀ s t : State, s.fault = false → s.pstate ≠ .idle → exec .prsNext s = .next t →
    t = { s with
      rcur := t.rcur, dout := t.dout, pstate := t.pstate, prem := t.prem, pres := t.pres, pnext := t.pnext }

/-- R164, R53: PRS_NEXT never reads a byte at or beyond FLEN: two frame buffers that agree below FLEN give the same
outcome. -/
def Obligations.ParserReadsOnlyTheFrame : Prop :=
  ∀ (s : State) (m : Memory), (∀ a, a < s.flen.toNat → Memory.read m a = s.readByte a) →
    exec .prsNext { s with fb := m } = withFrame m (exec .prsNext s)

/-! ## The host's side -/

/-- R33, R58: a host read changes no variable of MUXCODEC and returns DIN, DOUT, STATUS, LENS, AUX, or 0 above index 5.
What a read of the write-only CMD returns is the model's free value (log entry 4) and nothing is said of it. -/
def Obligations.HostReadsChangeNothing : Prop :=
  ∀ (s : State) (k : Nat) (rest : List Transaction), s.port.queue = .read k :: rest →
    ∃ t, step s = .next t ∧ t = { s with port := t.port } ∧ t.port.queue = rest
      ∧ (k = 1 → t.port.rdata = s.din) ∧ (k = 2 → t.port.rdata = s.dout)
      ∧ (k = 3 → t.port.rdata = s.statusView.setWidth 64) ∧ (k = 4 → t.port.rdata = s.lensView.setWidth 64)
      ∧ (k = 5 → t.port.rdata = s.auxView) ∧ (5 < k → t.port.rdata = 0#64)

/-- R33: a host write of DIN stores the value and executes nothing, also while FAULT = 1; a write of a read-only register
or of an index above 5 has no effect; a write of CMD executes the word. That it executes with the DIN that is held, and is
the value's low 32 bits, are the model's choices (log entries 3 and 6), as is the queue (log entry 1). -/
def Obligations.HostWritesOutsideCommand : Prop :=
  ∀ (s : State) (k : Nat) (v : Word64) (rest : List Transaction), s.port.queue = .write k v :: rest →
    (k = 1 → step s = .next { s.withQueue rest with din := v })
    ∧ (2 ≤ k → step s = .next (s.withQueue rest))
    ∧ (k = 0 → s.fault = false →
      (∀ i, decodeCommand (v.setWidth 32) = .ok i → step s = exec i (s.withQueue rest))
      ∧ ∀ why, decodeCommand (v.setWidth 32) = .error why →
        step s = .next { s.withQueue rest with fault := true, err := .illegalCommand })
    ∧ (k = 0 → s.fault = true →
      (v.setWidth 32 ≠ 0x00000001#32 → step s = .next (s.withQueue rest))
      ∧ (v.setWidth 32 = 0x00000001#32 → step s = .next (s.withQueue rest).resetAll))

/-- R30, R31: the fields of STATUS, LENS and AUX; and the code numbers that STATUS shows: ERR (R200), PSTATE (R29), CCUR
(R22). -/
def Obligations.ViewFields : Prop :=
  ([ErrorKind.none, .bufferOverflow, .unsupportedAddress, .invalidResolution, .internalContractViolation,
      .illegalCommand].map ErrorKind.code = [0#3, 1#3, 2#3, 3#3, 4#3, 5#3]
    ∧ [ParserState.idle, .scanning, .inRun, .exhausted, .error].map ParserState.code = [0#3, 1#3, 2#3, 3#3, 4#3]
    ∧ [Resolution.int8, .int16, .int32, .float, .ignore].map Resolution.code = [0#3, 1#3, 2#3, 3#3, 4#3])
  ∧ ∀ s : State,
    (s.statusView.extractLsb' 0 1 = BitVec.ofBool s.fault ∧ s.statusView.extractLsb' 1 3 = s.err.code
      ∧ s.statusView.extractLsb' 4 1 = BitVec.ofBool s.cact ∧ s.statusView.extractLsb' 5 3 = s.pstate.code
      ∧ s.statusView.extractLsb' 8 3 = s.ccur.code ∧ s.statusView.extractLsb' 11 2 = s.pres
      ∧ s.statusView.extractLsb' 13 3 = 0#3 ∧ s.statusView.extractLsb' 16 8 = s.prem
      ∧ s.statusView.extractLsb' 24 8 = 0#8)
    ∧ (s.lensView.extractLsb' 0 7 = s.flen ∧ s.lensView.extractLsb' 7 1 = 0#1 ∧ s.lensView.extractLsb' 8 7 = s.rcur
      ∧ s.lensView.extractLsb' 15 1 = 0#1 ∧ s.lensView.extractLsb' 16 8 = s.cn ∧ s.lensView.extractLsb' 24 8 = s.ci)
    ∧ (s.auxView.extractLsb' 0 8 = s.cbase ∧ s.auxView.extractLsb' 8 8 = 0#8 ∧ s.auxView.extractLsb' 16 16 = s.cstart
      ∧ s.auxView.extractLsb' 32 16 = s.pnext ∧ s.auxView.extractLsb' 48 16 = 0#16)

/-- R94, R122, R124: LOADFRAME over a running machine leaves the frame holding exactly the given bytes, no parser, and
every other byte and variable but DIN as before. -/
def Obligations.LoadFrameLoadsBytes : Prop :=
  ∀ (s : State) (d : Word64) (bs : List Byte), s.fault = false → s.fb.wf = true → bs.length ≤ 64 →
    ∃ t, serveAll (loadFrame d bs) s = .next t
      ∧ t = { s with fb := t.fb, flen := t.flen, rcur := 0#7, din := d, pstate := .idle }
      ∧ t.flen.toNat = bs.length
      ∧ (∀ (k : Nat) (h : k < bs.length), t.readByte k = bs[k])
      ∧ ∀ a, bs.length ≤ a → t.readByte a = s.readByte a
end

