-- ==== Sys2Proof/Laws/Decode.lean ====
section
/-! SUPPORT. The small lemmas of the decoder's and encoder's parts. -/

namespace Sys2Proof

@[simp] theorem Resolution.ofCode?_code (r : Resolution) : Resolution.ofCode? r.code = some r := by
  cases r <;> rfl

@[simp] theorem Quantity.ofCode_code (q : Quantity) : Quantity.ofCode q.code = q := by
  cases q <;> rfl

@[simp] theorem Opcode.ofCode?_code (op : Opcode) : Opcode.ofCode? op.code = some op := by
  cases op <;> rfl

theorem Opcode.mem_all (op : Opcode) : op ∈ Opcode.all := by
  cases op <;> decide

/-- The opcode a byte names has that byte as its code. -/
theorem Opcode.code_of_ofCode? {b : Byte} {op : Opcode} (h : Opcode.ofCode? b = some op) : op.code = b := by
  simpa using List.find?_some h

/-- A byte names no opcode exactly when it is no opcode's code. -/
theorem Opcode.ofCode?_eq_none {b : Byte} : Opcode.ofCode? b = none ↔ ∀ op : Opcode, op.code ≠ b := by
  simp only [Opcode.ofCode?, List.find?_eq_none, beq_iff_eq]
  exact ⟨fun h op => h op op.mem_all, fun h op _ => h op⟩

/-- The resolution a field names has that field as its code. -/
theorem Resolution.code_of_ofCode? {b : BitVec 3} {r : Resolution} (h : Resolution.ofCode? b = some r) : r.code = b := by
  simpa using List.find?_some h

/-- A RES field is reserved exactly when it is 5 or above (10_state.md R22). -/
theorem Resolution.ofCode?_eq_none {b : BitVec 3} : Resolution.ofCode? b = none ↔ 5 ≤ b.toNat := by
  revert b
  decide

theorem Quantity.code_ofCode (b : BitVec 3) : (Quantity.ofCode b).code = b := by
  revert b
  decide

/-- What `withRes` answers when it decodes. -/
theorem withRes_eq_ok {w : Word32} {mk : Resolution → Instr} {i : Instr} (h : withRes w mk = .ok i) :
    ∃ r, r.code = fieldRes w ∧ i = mk r := by
  unfold withRes at h
  split at h
  · cases h
  · next r hr =>
    cases h
    exact ⟨r, Resolution.code_of_ofCode? hr, rfl⟩

/-- What `ifLegal` answers when it decodes. -/
theorem ifLegal_eq_ok {i j : Instr} {why : Reject} (h : ifLegal i why = .ok j) : i.WellFormed ∧ j = i := by
  unfold ifLegal at h
  split at h
  · next hw =>
    cases h
    exact ⟨hw, rfl⟩
  · cases h

/-- Everything a word that decodes satisfies: its opcode, its unused bits, its operands. -/
theorem decodeCommand_eq_ok {w : Word32} {i : Instr} (h : decodeCommand w = .ok i) :
    ∃ op : Opcode, op.code = fieldOp w ∧ w &&& ~~~op.usedBits = 0#32 ∧ decodeOperands op w = .ok i := by
  unfold decodeCommand at h
  split at h
  · cases h
  · next op hop =>
    split at h
    · next hz => exact ⟨op, Opcode.code_of_ofCode? hop, hz, h⟩
    · cases h

/-- Payload sizes are 1, 2 or 4 (10_state.md R23). -/
theorem wireSize_mem (rc : BitVec 2) : wireSize rc = 1 ∨ wireSize rc = 2 ∨ wireSize rc = 4 := by
  revert rc
  decide

theorem wireSize_pos (rc : BitVec 2) : 0 < wireSize rc := by
  rcases wireSize_mem rc with h | h | h <;> omega

theorem wireSize_le (rc : BitVec 2) : wireSize rc ≤ 4 := by
  rcases wireSize_mem rc with h | h | h <;> omega

end Sys2Proof
end

