-- ==== Sys2Proof/Laws/Ieee.lean ====
section
/-! SUPPORT. The small lemmas of the IEEE 754 primitives: powers of two as fractions, the binary logarithm, packing and
unpacking. -/

namespace Sys2Proof.Machine

/-! ## Powers of two as fractions -/

theorem powNum_pos (e : Int) : 0 < powNum e := Nat.two_pow_pos _

theorem powDen_pos (e : Int) : 0 < powDen e := Nat.two_pow_pos _

/-- 2^e is the fraction of its numerator and denominator. -/
theorem powNum_eq (e : Int) : (powNum e : ℚ) = (2 : ℚ) ^ e * powDen e := by
  have h : (2 : ℚ) ^ e = (2 : ℚ) ^ (e.toNat : Int) * ((2 : ℚ) ^ ((-e).toNat : Int))⁻¹ := by
    rw [← zpow_neg, ← zpow_add₀ (by norm_num)]
    congr 1
    omega
  have h2 : ((2 : ℚ) ^ ((-e).toNat : Int)) ≠ 0 := by positivity
  rw [h, powNum, powDen]
  push_cast
  rw [← zpow_natCast, ← zpow_natCast, inv_mul_cancel_right₀ h2]

/-- Comparing fractions against 2^e. -/
theorem mul_powNum_le_iff (x y : Nat) (e : Int) : y * powNum e ≤ x * powDen e ↔ (y : ℚ) * (2 : ℚ) ^ e ≤ x := by
  have h : (0 : ℚ) < powDen e := by exact_mod_cast powDen_pos e
  rw [← Nat.cast_le (α := ℚ), Nat.cast_mul, Nat.cast_mul, powNum_eq, ← mul_assoc]
  exact mul_le_mul_iff_left₀ h

@[inherit_doc mul_powNum_le_iff]
theorem lt_mul_powNum_iff (x y : Nat) (e : Int) : x * powDen e < y * powNum e ↔ (x : ℚ) < (y : ℚ) * (2 : ℚ) ^ e := by
  rw [← not_le, ← not_le, mul_powNum_le_iff]

/-- The binary logarithm of a positive fraction: 2^k ≤ num / den < 2^(k+1). -/
theorem floorLog2_spec {num den : Nat} (hn : num ≠ 0) (hd : den ≠ 0) :
    (den : ℚ) * (2 : ℚ) ^ floorLog2 num den ≤ num ∧ (num : ℚ) < den * (2 : ℚ) ^ (floorLog2 num den + 1) := by
  have two : (2 : ℚ) ≠ 0 := by norm_num
  have n1 : (2 : ℚ) ^ (num.log2 : Int) ≤ num := by
    rw [zpow_natCast]
    exact_mod_cast Nat.log2_self_le hn
  have n2 : (num : ℚ) < (2 : ℚ) ^ (num.log2 : Int) * 2 := by
    rw [zpow_natCast, ← pow_succ]
    exact_mod_cast Nat.lt_log2_self
  have d1 : (2 : ℚ) ^ (den.log2 : Int) ≤ den := by
    rw [zpow_natCast]
    exact_mod_cast Nat.log2_self_le hd
  have d2 : (den : ℚ) < (2 : ℚ) ^ (den.log2 : Int) * 2 := by
    rw [zpow_natCast, ← pow_succ]
    exact_mod_cast Nat.lt_log2_self
  have split : (2 : ℚ) ^ (num.log2 : Int)
      = (2 : ℚ) ^ (den.log2 : Int) * (2 : ℚ) ^ ((num.log2 : Int) - (den.log2 : Int)) := by
    rw [← zpow_add₀ two]
    congr 1
    omega
  have kpos : (0 : ℚ) < (2 : ℚ) ^ ((num.log2 : Int) - (den.log2 : Int)) := by positivity
  unfold floorLog2
  by_cases h : den * powNum ((num.log2 : Int) - den.log2) ≤ num * powDen ((num.log2 : Int) - den.log2)
  · simp only [h, if_true]
    refine ⟨(mul_powNum_le_iff _ _ _).1 h, ?_⟩
    rw [zpow_add_one₀ two]
    nlinarith
  · simp only [h, if_false]
    have h' := (lt_mul_powNum_iff _ _ _).1 (Nat.not_le.1 h)
    refine ⟨?_, by rw [sub_add_cancel]; exact h'⟩
    rw [zpow_sub_one₀ two]
    nlinarith

/-! ## Packing and unpacking -/

theorem toNat_pack64 (neg : Bool) {m : Nat} (h : m < 2 ^ 63) : (pack64 neg m).toNat = neg.toNat * 2 ^ 63 + m := by
  simp only [pack64, BitVec.toNat_append, BitVec.toNat_ofBool, BitVec.toNat_ofNat, Nat.mod_eq_of_lt h, Nat.shiftLeft_eq]
  rw [← Nat.shiftLeft_eq, Nat.shiftLeft_add_eq_or_of_lt h]

theorem toNat_pack32 (neg : Bool) {m : Nat} (h : m < 2 ^ 31) : (pack32 neg m).toNat = neg.toNat * 2 ^ 31 + m := by
  simp only [pack32, BitVec.toNat_append, BitVec.toNat_ofBool, BitVec.toNat_ofNat, Nat.mod_eq_of_lt h]
  rw [← Nat.shiftLeft_eq, Nat.shiftLeft_add_eq_or_of_lt h]

/-- Unpacking a packed binary64: the sign, the biased exponent and the fraction of the magnitude. -/
theorem unpack64_pack64 (neg : Bool) {m : Nat} (h : m < 2 ^ 63) :
    unpack64 (pack64 neg m) = binary64.unpack neg (m / 2 ^ 52) (m % 2 ^ 52) := by
  have hp := toNat_pack64 neg h
  have e1 : (pack64 neg m).getLsbD 63 = neg := by
    rw [BitVec.getLsbD, hp, Nat.testBit_eq_decide_div_mod_eq]
    cases neg <;> simp <;> omega
  have e2 : ((pack64 neg m).extractLsb' 52 11).toNat = m / 2 ^ 52 := by
    rw [BitVec.extractLsb'_toNat, hp, Nat.shiftRight_eq_div_pow]
    cases neg <;> simp <;> omega
  have e3 : ((pack64 neg m).extractLsb' 0 52).toNat = m % 2 ^ 52 := by
    rw [BitVec.extractLsb'_toNat, hp, Nat.shiftRight_eq_div_pow]
    cases neg <;> simp; omega
  rw [unpack64, e1, e2, e3]

/-- Unpacking a packed binary32: the sign, the biased exponent and the fraction of the magnitude. -/
theorem unpack32_pack32 (neg : Bool) {m : Nat} (h : m < 2 ^ 31) :
    unpack32 (pack32 neg m) = binary32.unpack neg (m / 2 ^ 23) (m % 2 ^ 23) := by
  have hp := toNat_pack32 neg h
  have e1 : (pack32 neg m).getLsbD 31 = neg := by
    rw [BitVec.getLsbD, hp, Nat.testBit_eq_decide_div_mod_eq]
    cases neg <;> simp <;> omega
  have e2 : ((pack32 neg m).extractLsb' 23 8).toNat = m / 2 ^ 23 := by
    rw [BitVec.extractLsb'_toNat, hp, Nat.shiftRight_eq_div_pow]
    cases neg <;> simp <;> omega
  have e3 : ((pack32 neg m).extractLsb' 0 23).toNat = m % 2 ^ 23 := by
    rw [BitVec.extractLsb'_toNat, hp, Nat.shiftRight_eq_div_pow]
    cases neg <;> simp; omega
  rw [unpack32, e1, e2, e3]

/-- A rounded magnitude is at most infinity's pattern. -/
theorem FloatFormat.roundMagnitude_le (f : FloatFormat) (num den : Nat) :
    f.roundMagnitude num den ≤ f.expOnes * 2 ^ f.fracBits := by
  unfold FloatFormat.roundMagnitude
  split
  · exact Nat.zero_le _
  · exact Nat.min_le_right _ _

end Sys2Proof.Machine
end

