-- ==== Sys2Proof/Laws/Memory.lean ====
section
/-! SUPPORT. The laws of the frame buffer as a memory: a read after a write, the canonical form, and byte order. -/

namespace Sys2Proof.Machine

/-! ## Canonical form -/

theorem Memory.wfFrom_mono {lo lo' : Nat} (h : lo' ≤ lo) : ∀ {m : Memory}, Memory.wfFrom lo m = true → Memory.wfFrom lo' m = true
  | [], _ => rfl
  | (x, y) :: m, hm => by
    simp only [Memory.wfFrom, Bool.and_eq_true, decide_eq_true_eq] at hm ⊢
    exact ⟨⟨⟨by omega, hm.1.1.2⟩, hm.1.2⟩, hm.2⟩

theorem Memory.read_below {lo a : Nat} (ha : a < lo) : ∀ {m : Memory}, Memory.wfFrom lo m = true → m.read a = Memory.unlisted
  | [], _ => rfl
  | (x, y) :: m, hm => by
    simp only [Memory.wfFrom, Bool.and_eq_true, decide_eq_true_eq] at hm
    have hx : a ≠ x := by omega
    simp only [Memory.read, hx, if_false]
    exact Memory.read_below (lo := x + 1) (by omega) hm.2

theorem Memory.wfFrom_write {a : Nat} (b : Byte) (ha : a < Config.fbCap) :
    ∀ {lo : Nat} {m : Memory}, lo ≤ a → Memory.wfFrom lo m = true → Memory.wfFrom lo (m.write a b) = true
  | lo, [], hlo, _ => by
    by_cases hb : b = Memory.unlisted <;> simp [Memory.write, Memory.wfFrom, hb, hlo, ha]
  | lo, (x, y) :: m, hlo, hm => by
    have hm' := hm
    simp only [Memory.wfFrom, Bool.and_eq_true, decide_eq_true_eq] at hm
    obtain ⟨⟨⟨h1, h2⟩, h3⟩, h4⟩ := hm
    by_cases hax : a < x
    · by_cases hb : b = Memory.unlisted
      · simpa [Memory.write, hax, hb] using hm'
      · simp [Memory.write, hax, hb, Memory.wfFrom, hlo, ha, h2, h3, h4]
    · by_cases hae : a = x
      · by_cases hb : b = Memory.unlisted
        · simp only [Memory.write, hae, hb, if_true, if_false, lt_irrefl]
          exact Memory.wfFrom_mono (by omega) h4
        · simp [Memory.write, hae, hb, Memory.wfFrom, h1, h2, h4]
      · simp only [Memory.write, hax, hae, if_false, Memory.wfFrom, h1, h2, h3, decide_true, Bool.true_and,
          Bool.and_self, ne_eq, not_false_eq_true]
        exact Memory.wfFrom_write b ha (by omega) h4

/-- A store inside the buffer keeps the canonical form. -/
theorem Memory.wf_write {m : Memory} {a : Nat} (b : Byte) (ha : a < Config.fbCap) (hm : m.wf = true) :
    (m.write a b).wf = true :=
  Memory.wfFrom_write b ha (Nat.zero_le a) hm

/-- Storing bytes inside the buffer keeps the canonical form. -/
theorem Memory.wf_writeBytes : ∀ {bs : List Byte} {m : Memory} {a : Nat}, a + bs.length ≤ Config.fbCap →
    m.wf = true → (m.writeBytes a bs).wf = true
  | [], _, _, _, hm => hm
  | b :: bs, m, a, ha, hm => by
    simp only [List.length_cons] at ha
    exact Memory.wf_writeBytes (bs := bs) (m := m.write a b) (a := a + 1) (by omega) (Memory.wf_write b (by omega) hm)

/-- The frame buffer after reset is in canonical form. -/
theorem State.reset_fb_wf : State.reset.fb.wf = true := rfl

/-! ## Read after write -/

theorem Memory.read_write_from {a : Nat} (b : Byte) (a' : Nat) : ∀ {lo : Nat} {m : Memory}, Memory.wfFrom lo m = true →
    (m.write a b).read a' = if a' = a then b else m.read a'
  | lo, [], _ => by
    by_cases hb : b = Memory.unlisted
    · simp [Memory.write, Memory.read, hb]
    · simp [Memory.write, Memory.read, hb]
  | lo, (x, y) :: m, hm => by
    simp only [Memory.wfFrom, Bool.and_eq_true, decide_eq_true_eq] at hm
    obtain ⟨⟨⟨h1, h2⟩, h3⟩, h4⟩ := hm
    by_cases hax : a < x
    · by_cases hb : b = Memory.unlisted
      · simp only [Memory.write, hax, hb, if_true]
        by_cases haa : a' = a
        · have hx : a ≠ x := by omega
          simp only [haa, if_true, Memory.read, hx, if_false]
          exact Memory.read_below (by omega) h4
        · simp [haa]
      · simp [Memory.write, hax, hb, Memory.read]
    · by_cases hae : a = x
      · subst hae
        by_cases hb : b = Memory.unlisted
        · simp only [Memory.write, lt_irrefl, hb, if_true, if_false, Memory.read]
          by_cases haa : a' = a
          · simp only [haa, if_true]
            exact Memory.read_below (by omega) h4
          · simp [haa]
        · by_cases haa : a' = a <;> simp [Memory.write, hb, Memory.read, haa]
      · simp only [Memory.write, hax, hae, if_false, Memory.read]
        by_cases hx : a' = x
        · have hxa : x ≠ a := fun h => hae h.symm
          simp [hx, hxa]
        · simp only [hx, if_false]
          exact Memory.read_write_from b a' h4

/-- What a read gives after a store: the stored byte at its index, the old byte elsewhere. -/
theorem Memory.read_write {m : Memory} (hm : m.wf = true) (a : Nat) (b : Byte) (a' : Nat) :
    (m.write a b).read a' = if a' = a then b else m.read a' :=
  Memory.read_write_from b a' hm

/-- What a read gives after bytes were stored at consecutive indices inside the buffer. -/
theorem Memory.read_writeBytes : ∀ {bs : List Byte} {m : Memory} {a : Nat}, a + bs.length ≤ Config.fbCap → m.wf = true →
    ∀ a', (m.writeBytes a bs).read a' = if h : a ≤ a' ∧ a' < a + bs.length then bs[a' - a]'(by omega) else m.read a'
  | [], m, a, _, _, a' => by
    have h : ¬(a ≤ a' ∧ a' < a + ([] : List Byte).length) := by simp
    simp only [Memory.writeBytes, h, dif_neg, not_false_eq_true]
  | b :: bs, m, a, ha, hm, a' => by
    simp only [List.length_cons] at ha
    simp only [Memory.writeBytes]
    rw [Memory.read_writeBytes (by omega) (Memory.wf_write b (by omega) hm) a']
    by_cases h1 : a + 1 ≤ a' ∧ a' < a + 1 + bs.length
    · have h2 : a ≤ a' ∧ a' < a + (b :: bs).length := by simp only [List.length_cons]; omega
      simp only [h1, h2, dif_pos, and_self]
      have h3 : a' - a = (a' - (a + 1)) + 1 := by omega
      simp [h3]
    · by_cases h4 : a' = a
      · have h2 : a ≤ a' ∧ a' < a + (b :: bs).length := by simp only [List.length_cons]; omega
        subst h4
        simp only [h1, h2, dif_neg, dif_pos, not_false_eq_true, and_self, Memory.read_write hm, if_true]
        simp
      · have h2 : ¬(a ≤ a' ∧ a' < a + (b :: bs).length) := by simp only [List.length_cons]; omega
        rw [dif_neg h1, dif_neg h2, Memory.read_write hm, if_neg h4]

/-! ## Byte order -/

@[simp] theorem length_bytesLE : ∀ (n : Nat) (v : Word64), (bytesLE n v).length = n
  | 0, _ => rfl
  | n + 1, v => by simp [bytesLE, length_bytesLE n]

/-- Byte k of the little-endian bytes is bits 8k+7 to 8k (20_memory.md R55). -/
theorem getElem_bytesLE : ∀ (n : Nat) (v : Word64) (k : Nat) (h : k < (bytesLE n v).length),
    (bytesLE n v)[k] = (v >>> (8 * k)).setWidth 8
  | n + 1, v, 0, _ => by simp [bytesLE]
  | n + 1, v, k + 1, h => by
    simp only [bytesLE, List.getElem_cons_succ]
    rw [getElem_bytesLE n]
    congr 1
    rw [← BitVec.shiftRight_add]
    congr 1
    omega

/-- The result of an append: FLEN moved past the bytes, the bytes from the old FLEN on, every other byte kept. -/
theorem State.readByte_append {s : State} {bs : List Byte} (hfit : s.flen.toNat + bs.length ≤ Config.fbCap)
    (hwf : s.fb.wf = true) (a : Nat) :
    (s.append bs).readByte a
      = if h : s.flen.toNat ≤ a ∧ a < s.flen.toNat + bs.length then bs[a - s.flen.toNat]'(by omega) else s.readByte a :=
  Memory.read_writeBytes hfit hwf a

end Sys2Proof.Machine
end

