-- ==== Sys2Proof/Laws/State.lean ====
section
/-! SUPPORT. One lemma per field per named update of State, so that no proof unfolds an update. -/

namespace Sys2Proof.Machine

@[simp] theorem State.raised_fb (s : State) (e : ErrorKind) : (s.raised e).fb = s.fb := rfl
@[simp] theorem State.raised_flen (s : State) (e : ErrorKind) : (s.raised e).flen = s.flen := rfl
@[simp] theorem State.raised_rcur (s : State) (e : ErrorKind) : (s.raised e).rcur = s.rcur := rfl
@[simp] theorem State.raised_din (s : State) (e : ErrorKind) : (s.raised e).din = s.din := rfl
@[simp] theorem State.raised_dout (s : State) (e : ErrorKind) : (s.raised e).dout = s.dout := rfl
@[simp] theorem State.raised_fault (s : State) (e : ErrorKind) : (s.raised e).fault = true := rfl
@[simp] theorem State.raised_err (s : State) (e : ErrorKind) : (s.raised e).err = e := rfl
@[simp] theorem State.raised_cact (s : State) (e : ErrorKind) : (s.raised e).cact = s.cact := rfl
@[simp] theorem State.raised_cbase (s : State) (e : ErrorKind) : (s.raised e).cbase = s.cbase := rfl
@[simp] theorem State.raised_cstart (s : State) (e : ErrorKind) : (s.raised e).cstart = s.cstart := rfl
@[simp] theorem State.raised_cn (s : State) (e : ErrorKind) : (s.raised e).cn = s.cn := rfl
@[simp] theorem State.raised_ci (s : State) (e : ErrorKind) : (s.raised e).ci = s.ci := rfl
@[simp] theorem State.raised_ccur (s : State) (e : ErrorKind) : (s.raised e).ccur = s.ccur := rfl
@[simp] theorem State.raised_cres (s : State) (e : ErrorKind) : (s.raised e).cres = s.cres := rfl
@[simp] theorem State.raised_pstate (s : State) (e : ErrorKind) : (s.raised e).pstate = s.pstate := rfl
@[simp] theorem State.raised_prem (s : State) (e : ErrorKind) : (s.raised e).prem = s.prem := rfl
@[simp] theorem State.raised_pres (s : State) (e : ErrorKind) : (s.raised e).pres = s.pres := rfl
@[simp] theorem State.raised_pnext (s : State) (e : ErrorKind) : (s.raised e).pnext = s.pnext := rfl
@[simp] theorem State.raised_cfg (s : State) (e : ErrorKind) : (s.raised e).cfg = s.cfg := rfl
@[simp] theorem State.raised_port (s : State) (e : ErrorKind) : (s.raised e).port = s.port := rfl

@[simp] theorem State.writeByte_fb (s : State) (i : Nat) (b : Byte) : (s.writeByte i b).fb = s.fb.write i b := rfl
@[simp] theorem State.writeByte_flen (s : State) (i : Nat) (b : Byte) : (s.writeByte i b).flen = s.flen := rfl
@[simp] theorem State.writeByte_rcur (s : State) (i : Nat) (b : Byte) : (s.writeByte i b).rcur = s.rcur := rfl
@[simp] theorem State.writeByte_din (s : State) (i : Nat) (b : Byte) : (s.writeByte i b).din = s.din := rfl
@[simp] theorem State.writeByte_dout (s : State) (i : Nat) (b : Byte) : (s.writeByte i b).dout = s.dout := rfl
@[simp] theorem State.writeByte_fault (s : State) (i : Nat) (b : Byte) : (s.writeByte i b).fault = s.fault := rfl
@[simp] theorem State.writeByte_err (s : State) (i : Nat) (b : Byte) : (s.writeByte i b).err = s.err := rfl
@[simp] theorem State.writeByte_cact (s : State) (i : Nat) (b : Byte) : (s.writeByte i b).cact = s.cact := rfl
@[simp] theorem State.writeByte_cbase (s : State) (i : Nat) (b : Byte) : (s.writeByte i b).cbase = s.cbase := rfl
@[simp] theorem State.writeByte_cstart (s : State) (i : Nat) (b : Byte) : (s.writeByte i b).cstart = s.cstart := rfl
@[simp] theorem State.writeByte_cn (s : State) (i : Nat) (b : Byte) : (s.writeByte i b).cn = s.cn := rfl
@[simp] theorem State.writeByte_ci (s : State) (i : Nat) (b : Byte) : (s.writeByte i b).ci = s.ci := rfl
@[simp] theorem State.writeByte_ccur (s : State) (i : Nat) (b : Byte) : (s.writeByte i b).ccur = s.ccur := rfl
@[simp] theorem State.writeByte_cres (s : State) (i : Nat) (b : Byte) : (s.writeByte i b).cres = s.cres := rfl
@[simp] theorem State.writeByte_pstate (s : State) (i : Nat) (b : Byte) : (s.writeByte i b).pstate = s.pstate := rfl
@[simp] theorem State.writeByte_prem (s : State) (i : Nat) (b : Byte) : (s.writeByte i b).prem = s.prem := rfl
@[simp] theorem State.writeByte_pres (s : State) (i : Nat) (b : Byte) : (s.writeByte i b).pres = s.pres := rfl
@[simp] theorem State.writeByte_pnext (s : State) (i : Nat) (b : Byte) : (s.writeByte i b).pnext = s.pnext := rfl
@[simp] theorem State.writeByte_cfg (s : State) (i : Nat) (b : Byte) : (s.writeByte i b).cfg = s.cfg := rfl
@[simp] theorem State.writeByte_port (s : State) (i : Nat) (b : Byte) : (s.writeByte i b).port = s.port := rfl

@[simp] theorem State.append_fb (s : State) (bs : List Byte) : (s.append bs).fb = s.fb.writeBytes s.flen.toNat bs := rfl
@[simp] theorem State.append_flen (s : State) (bs : List Byte) : (s.append bs).flen = s.flen + BitVec.ofNat 7 bs.length := rfl
@[simp] theorem State.append_rcur (s : State) (bs : List Byte) : (s.append bs).rcur = s.rcur := rfl
@[simp] theorem State.append_din (s : State) (bs : List Byte) : (s.append bs).din = s.din := rfl
@[simp] theorem State.append_dout (s : State) (bs : List Byte) : (s.append bs).dout = s.dout := rfl
@[simp] theorem State.append_fault (s : State) (bs : List Byte) : (s.append bs).fault = s.fault := rfl
@[simp] theorem State.append_err (s : State) (bs : List Byte) : (s.append bs).err = s.err := rfl
@[simp] theorem State.append_cact (s : State) (bs : List Byte) : (s.append bs).cact = s.cact := rfl
@[simp] theorem State.append_cbase (s : State) (bs : List Byte) : (s.append bs).cbase = s.cbase := rfl
@[simp] theorem State.append_cstart (s : State) (bs : List Byte) : (s.append bs).cstart = s.cstart := rfl
@[simp] theorem State.append_cn (s : State) (bs : List Byte) : (s.append bs).cn = s.cn := rfl
@[simp] theorem State.append_ci (s : State) (bs : List Byte) : (s.append bs).ci = s.ci := rfl
@[simp] theorem State.append_ccur (s : State) (bs : List Byte) : (s.append bs).ccur = s.ccur := rfl
@[simp] theorem State.append_cres (s : State) (bs : List Byte) : (s.append bs).cres = s.cres := rfl
@[simp] theorem State.append_pstate (s : State) (bs : List Byte) : (s.append bs).pstate = s.pstate := rfl
@[simp] theorem State.append_prem (s : State) (bs : List Byte) : (s.append bs).prem = s.prem := rfl
@[simp] theorem State.append_pres (s : State) (bs : List Byte) : (s.append bs).pres = s.pres := rfl
@[simp] theorem State.append_pnext (s : State) (bs : List Byte) : (s.append bs).pnext = s.pnext := rfl
@[simp] theorem State.append_cfg (s : State) (bs : List Byte) : (s.append bs).cfg = s.cfg := rfl
@[simp] theorem State.append_port (s : State) (bs : List Byte) : (s.append bs).port = s.port := rfl

@[simp] theorem State.decided_fb (s : State) (cur : Resolution) (w : Bool) : (s.decided cur w).fb = s.fb := rfl
@[simp] theorem State.decided_flen (s : State) (cur : Resolution) (w : Bool) : (s.decided cur w).flen = s.flen := rfl
@[simp] theorem State.decided_rcur (s : State) (cur : Resolution) (w : Bool) : (s.decided cur w).rcur = s.rcur := rfl
@[simp] theorem State.decided_din (s : State) (cur : Resolution) (w : Bool) : (s.decided cur w).din = s.din := rfl
@[simp] theorem State.decided_dout (s : State) (cur : Resolution) (w : Bool) : (s.decided cur w).dout = writeFlag w := rfl
@[simp] theorem State.decided_fault (s : State) (cur : Resolution) (w : Bool) : (s.decided cur w).fault = s.fault := rfl
@[simp] theorem State.decided_err (s : State) (cur : Resolution) (w : Bool) : (s.decided cur w).err = s.err := rfl
@[simp] theorem State.decided_cact (s : State) (cur : Resolution) (w : Bool) : (s.decided cur w).cact = s.cact := rfl
@[simp] theorem State.decided_cbase (s : State) (cur : Resolution) (w : Bool) : (s.decided cur w).cbase = s.cbase := rfl
@[simp] theorem State.decided_cstart (s : State) (cur : Resolution) (w : Bool) : (s.decided cur w).cstart = s.cstart := rfl
@[simp] theorem State.decided_cn (s : State) (cur : Resolution) (w : Bool) : (s.decided cur w).cn = s.cn := rfl
@[simp] theorem State.decided_ci (s : State) (cur : Resolution) (w : Bool) : (s.decided cur w).ci = s.ci + 1#8 := rfl
@[simp] theorem State.decided_ccur (s : State) (cur : Resolution) (w : Bool) : (s.decided cur w).ccur = cur := rfl
@[simp] theorem State.decided_cres (s : State) (cur : Resolution) (w : Bool) : (s.decided cur w).cres = s.cres := rfl
@[simp] theorem State.decided_pstate (s : State) (cur : Resolution) (w : Bool) : (s.decided cur w).pstate = s.pstate := rfl
@[simp] theorem State.decided_prem (s : State) (cur : Resolution) (w : Bool) : (s.decided cur w).prem = s.prem := rfl
@[simp] theorem State.decided_pres (s : State) (cur : Resolution) (w : Bool) : (s.decided cur w).pres = s.pres := rfl
@[simp] theorem State.decided_pnext (s : State) (cur : Resolution) (w : Bool) : (s.decided cur w).pnext = s.pnext := rfl
@[simp] theorem State.decided_cfg (s : State) (cur : Resolution) (w : Bool) : (s.decided cur w).cfg = s.cfg := rfl
@[simp] theorem State.decided_port (s : State) (cur : Resolution) (w : Bool) : (s.decided cur w).port = s.port := rfl

@[simp] theorem State.consume_fb (s : State) (n : Nat) : (s.consume n).fb = s.fb := rfl
@[simp] theorem State.consume_flen (s : State) (n : Nat) : (s.consume n).flen = s.flen := rfl
@[simp] theorem State.consume_rcur (s : State) (n : Nat) : (s.consume n).rcur = s.rcur + BitVec.ofNat 7 n := rfl
@[simp] theorem State.consume_din (s : State) (n : Nat) : (s.consume n).din = s.din := rfl
@[simp] theorem State.consume_dout (s : State) (n : Nat) : (s.consume n).dout = s.dout := rfl
@[simp] theorem State.consume_fault (s : State) (n : Nat) : (s.consume n).fault = s.fault := rfl
@[simp] theorem State.consume_err (s : State) (n : Nat) : (s.consume n).err = s.err := rfl
@[simp] theorem State.consume_cact (s : State) (n : Nat) : (s.consume n).cact = s.cact := rfl
@[simp] theorem State.consume_cbase (s : State) (n : Nat) : (s.consume n).cbase = s.cbase := rfl
@[simp] theorem State.consume_cstart (s : State) (n : Nat) : (s.consume n).cstart = s.cstart := rfl
@[simp] theorem State.consume_cn (s : State) (n : Nat) : (s.consume n).cn = s.cn := rfl
@[simp] theorem State.consume_ci (s : State) (n : Nat) : (s.consume n).ci = s.ci := rfl
@[simp] theorem State.consume_ccur (s : State) (n : Nat) : (s.consume n).ccur = s.ccur := rfl
@[simp] theorem State.consume_cres (s : State) (n : Nat) : (s.consume n).cres = s.cres := rfl
@[simp] theorem State.consume_pstate (s : State) (n : Nat) : (s.consume n).pstate = s.pstate := rfl
@[simp] theorem State.consume_prem (s : State) (n : Nat) : (s.consume n).prem = s.prem := rfl
@[simp] theorem State.consume_pres (s : State) (n : Nat) : (s.consume n).pres = s.pres := rfl
@[simp] theorem State.consume_pnext (s : State) (n : Nat) : (s.consume n).pnext = s.pnext := rfl
@[simp] theorem State.consume_cfg (s : State) (n : Nat) : (s.consume n).cfg = s.cfg := rfl
@[simp] theorem State.consume_port (s : State) (n : Nat) : (s.consume n).port = s.port := rfl

@[simp] theorem State.endSequence_fb (s : State) (p : ParserState) : (s.endSequence p).fb = s.fb := rfl
@[simp] theorem State.endSequence_flen (s : State) (p : ParserState) : (s.endSequence p).flen = s.flen := rfl
@[simp] theorem State.endSequence_rcur (s : State) (p : ParserState) : (s.endSequence p).rcur = s.rcur := rfl
@[simp] theorem State.endSequence_din (s : State) (p : ParserState) : (s.endSequence p).din = s.din := rfl
@[simp] theorem State.endSequence_dout (s : State) (p : ParserState) : (s.endSequence p).dout = 0#64 := rfl
@[simp] theorem State.endSequence_fault (s : State) (p : ParserState) : (s.endSequence p).fault = s.fault := rfl
@[simp] theorem State.endSequence_err (s : State) (p : ParserState) : (s.endSequence p).err = s.err := rfl
@[simp] theorem State.endSequence_cact (s : State) (p : ParserState) : (s.endSequence p).cact = s.cact := rfl
@[simp] theorem State.endSequence_cbase (s : State) (p : ParserState) : (s.endSequence p).cbase = s.cbase := rfl
@[simp] theorem State.endSequence_cstart (s : State) (p : ParserState) : (s.endSequence p).cstart = s.cstart := rfl
@[simp] theorem State.endSequence_cn (s : State) (p : ParserState) : (s.endSequence p).cn = s.cn := rfl
@[simp] theorem State.endSequence_ci (s : State) (p : ParserState) : (s.endSequence p).ci = s.ci := rfl
@[simp] theorem State.endSequence_ccur (s : State) (p : ParserState) : (s.endSequence p).ccur = s.ccur := rfl
@[simp] theorem State.endSequence_cres (s : State) (p : ParserState) : (s.endSequence p).cres = s.cres := rfl
@[simp] theorem State.endSequence_pstate (s : State) (p : ParserState) : (s.endSequence p).pstate = p := rfl
@[simp] theorem State.endSequence_prem (s : State) (p : ParserState) : (s.endSequence p).prem = s.prem := rfl
@[simp] theorem State.endSequence_pres (s : State) (p : ParserState) : (s.endSequence p).pres = s.pres := rfl
@[simp] theorem State.endSequence_pnext (s : State) (p : ParserState) : (s.endSequence p).pnext = s.pnext := rfl
@[simp] theorem State.endSequence_cfg (s : State) (p : ParserState) : (s.endSequence p).cfg = s.cfg := rfl
@[simp] theorem State.endSequence_port (s : State) (p : ParserState) : (s.endSequence p).port = s.port := rfl

@[simp] theorem State.withQueue_fb (s : State) (q : List Transaction) : (s.withQueue q).fb = s.fb := rfl
@[simp] theorem State.withQueue_flen (s : State) (q : List Transaction) : (s.withQueue q).flen = s.flen := rfl
@[simp] theorem State.withQueue_rcur (s : State) (q : List Transaction) : (s.withQueue q).rcur = s.rcur := rfl
@[simp] theorem State.withQueue_din (s : State) (q : List Transaction) : (s.withQueue q).din = s.din := rfl
@[simp] theorem State.withQueue_dout (s : State) (q : List Transaction) : (s.withQueue q).dout = s.dout := rfl
@[simp] theorem State.withQueue_fault (s : State) (q : List Transaction) : (s.withQueue q).fault = s.fault := rfl
@[simp] theorem State.withQueue_err (s : State) (q : List Transaction) : (s.withQueue q).err = s.err := rfl
@[simp] theorem State.withQueue_cact (s : State) (q : List Transaction) : (s.withQueue q).cact = s.cact := rfl
@[simp] theorem State.withQueue_cbase (s : State) (q : List Transaction) : (s.withQueue q).cbase = s.cbase := rfl
@[simp] theorem State.withQueue_cstart (s : State) (q : List Transaction) : (s.withQueue q).cstart = s.cstart := rfl
@[simp] theorem State.withQueue_cn (s : State) (q : List Transaction) : (s.withQueue q).cn = s.cn := rfl
@[simp] theorem State.withQueue_ci (s : State) (q : List Transaction) : (s.withQueue q).ci = s.ci := rfl
@[simp] theorem State.withQueue_ccur (s : State) (q : List Transaction) : (s.withQueue q).ccur = s.ccur := rfl
@[simp] theorem State.withQueue_cres (s : State) (q : List Transaction) : (s.withQueue q).cres = s.cres := rfl
@[simp] theorem State.withQueue_pstate (s : State) (q : List Transaction) : (s.withQueue q).pstate = s.pstate := rfl
@[simp] theorem State.withQueue_prem (s : State) (q : List Transaction) : (s.withQueue q).prem = s.prem := rfl
@[simp] theorem State.withQueue_pres (s : State) (q : List Transaction) : (s.withQueue q).pres = s.pres := rfl
@[simp] theorem State.withQueue_pnext (s : State) (q : List Transaction) : (s.withQueue q).pnext = s.pnext := rfl
@[simp] theorem State.withQueue_cfg (s : State) (q : List Transaction) : (s.withQueue q).cfg = s.cfg := rfl
@[simp] theorem State.withQueue_port (s : State) (q : List Transaction) : (s.withQueue q).port = { s.port with queue := q } := rfl

@[simp] theorem State.hostRead_fb (s : State) (k : Nat) : (s.hostRead k).fb = s.fb := rfl
@[simp] theorem State.hostRead_flen (s : State) (k : Nat) : (s.hostRead k).flen = s.flen := rfl
@[simp] theorem State.hostRead_rcur (s : State) (k : Nat) : (s.hostRead k).rcur = s.rcur := rfl
@[simp] theorem State.hostRead_din (s : State) (k : Nat) : (s.hostRead k).din = s.din := rfl
@[simp] theorem State.hostRead_dout (s : State) (k : Nat) : (s.hostRead k).dout = s.dout := rfl
@[simp] theorem State.hostRead_fault (s : State) (k : Nat) : (s.hostRead k).fault = s.fault := rfl
@[simp] theorem State.hostRead_err (s : State) (k : Nat) : (s.hostRead k).err = s.err := rfl
@[simp] theorem State.hostRead_cact (s : State) (k : Nat) : (s.hostRead k).cact = s.cact := rfl
@[simp] theorem State.hostRead_cbase (s : State) (k : Nat) : (s.hostRead k).cbase = s.cbase := rfl
@[simp] theorem State.hostRead_cstart (s : State) (k : Nat) : (s.hostRead k).cstart = s.cstart := rfl
@[simp] theorem State.hostRead_cn (s : State) (k : Nat) : (s.hostRead k).cn = s.cn := rfl
@[simp] theorem State.hostRead_ci (s : State) (k : Nat) : (s.hostRead k).ci = s.ci := rfl
@[simp] theorem State.hostRead_ccur (s : State) (k : Nat) : (s.hostRead k).ccur = s.ccur := rfl
@[simp] theorem State.hostRead_cres (s : State) (k : Nat) : (s.hostRead k).cres = s.cres := rfl
@[simp] theorem State.hostRead_pstate (s : State) (k : Nat) : (s.hostRead k).pstate = s.pstate := rfl
@[simp] theorem State.hostRead_prem (s : State) (k : Nat) : (s.hostRead k).prem = s.prem := rfl
@[simp] theorem State.hostRead_pres (s : State) (k : Nat) : (s.hostRead k).pres = s.pres := rfl
@[simp] theorem State.hostRead_pnext (s : State) (k : Nat) : (s.hostRead k).pnext = s.pnext := rfl
@[simp] theorem State.hostRead_cfg (s : State) (k : Nat) : (s.hostRead k).cfg = s.cfg := rfl
@[simp] theorem State.hostRead_port (s : State) (k : Nat) : (s.hostRead k).port = { s.port with rdata := s.hostRegister k, freeCount := if k = 0 then s.port.freeCount + 1 else s.port.freeCount } := rfl

@[simp] theorem State.resetAll_fb (s : State) : (s.resetAll).fb = State.reset.fb := rfl
@[simp] theorem State.resetAll_flen (s : State) : (s.resetAll).flen = State.reset.flen := rfl
@[simp] theorem State.resetAll_rcur (s : State) : (s.resetAll).rcur = State.reset.rcur := rfl
@[simp] theorem State.resetAll_din (s : State) : (s.resetAll).din = State.reset.din := rfl
@[simp] theorem State.resetAll_dout (s : State) : (s.resetAll).dout = State.reset.dout := rfl
@[simp] theorem State.resetAll_fault (s : State) : (s.resetAll).fault = State.reset.fault := rfl
@[simp] theorem State.resetAll_err (s : State) : (s.resetAll).err = State.reset.err := rfl
@[simp] theorem State.resetAll_cact (s : State) : (s.resetAll).cact = State.reset.cact := rfl
@[simp] theorem State.resetAll_cbase (s : State) : (s.resetAll).cbase = State.reset.cbase := rfl
@[simp] theorem State.resetAll_cstart (s : State) : (s.resetAll).cstart = State.reset.cstart := rfl
@[simp] theorem State.resetAll_cn (s : State) : (s.resetAll).cn = State.reset.cn := rfl
@[simp] theorem State.resetAll_ci (s : State) : (s.resetAll).ci = State.reset.ci := rfl
@[simp] theorem State.resetAll_ccur (s : State) : (s.resetAll).ccur = State.reset.ccur := rfl
@[simp] theorem State.resetAll_cres (s : State) : (s.resetAll).cres = State.reset.cres := rfl
@[simp] theorem State.resetAll_pstate (s : State) : (s.resetAll).pstate = State.reset.pstate := rfl
@[simp] theorem State.resetAll_prem (s : State) : (s.resetAll).prem = State.reset.prem := rfl
@[simp] theorem State.resetAll_pres (s : State) : (s.resetAll).pres = State.reset.pres := rfl
@[simp] theorem State.resetAll_pnext (s : State) : (s.resetAll).pnext = State.reset.pnext := rfl
@[simp] theorem State.resetAll_cfg (s : State) : (s.resetAll).cfg = s.cfg := rfl
@[simp] theorem State.resetAll_port (s : State) : (s.resetAll).port = s.port := rfl

@[simp] theorem State.raised_readByte (s : State) (e : ErrorKind) (a : Nat) : (s.raised e).readByte a = s.readByte a := rfl
@[simp] theorem State.raised_parserLive (s : State) (e : ErrorKind) : (s.raised e).parserLive = s.parserLive := rfl
@[simp] theorem State.raised_declared (s : State) (e : ErrorKind) (k : Nat) : (s.raised e).declared k = s.declared k := rfl
@[simp] theorem State.raised_atEnd (s : State) (e : ErrorKind) : (s.raised e).atEnd = s.atEnd := rfl
@[simp] theorem State.writeByte_parserLive (s : State) (i : Nat) (b : Byte) : (s.writeByte i b).parserLive = s.parserLive := rfl
@[simp] theorem State.writeByte_declared (s : State) (i : Nat) (b : Byte) (k : Nat) : (s.writeByte i b).declared k = s.declared k := rfl
@[simp] theorem State.writeByte_atEnd (s : State) (i : Nat) (b : Byte) : (s.writeByte i b).atEnd = s.atEnd := rfl
@[simp] theorem State.append_parserLive (s : State) (bs : List Byte) : (s.append bs).parserLive = s.parserLive := rfl
@[simp] theorem State.append_declared (s : State) (bs : List Byte) (k : Nat) : (s.append bs).declared k = s.declared k := rfl
@[simp] theorem State.decided_readByte (s : State) (cur : Resolution) (w : Bool) (a : Nat) : (s.decided cur w).readByte a = s.readByte a := rfl
@[simp] theorem State.decided_parserLive (s : State) (cur : Resolution) (w : Bool) : (s.decided cur w).parserLive = s.parserLive := rfl
@[simp] theorem State.decided_declared (s : State) (cur : Resolution) (w : Bool) (k : Nat) : (s.decided cur w).declared k = s.declared k := rfl
@[simp] theorem State.decided_atEnd (s : State) (cur : Resolution) (w : Bool) : (s.decided cur w).atEnd = s.atEnd := rfl
@[simp] theorem State.consume_readByte (s : State) (n : Nat) (a : Nat) : (s.consume n).readByte a = s.readByte a := rfl
@[simp] theorem State.consume_parserLive (s : State) (n : Nat) : (s.consume n).parserLive = s.parserLive := rfl
@[simp] theorem State.consume_declared (s : State) (n : Nat) (k : Nat) : (s.consume n).declared k = s.declared k := rfl
@[simp] theorem State.endSequence_readByte (s : State) (p : ParserState) (a : Nat) : (s.endSequence p).readByte a = s.readByte a := rfl
@[simp] theorem State.endSequence_declared (s : State) (p : ParserState) (k : Nat) : (s.endSequence p).declared k = s.declared k := rfl
@[simp] theorem State.endSequence_atEnd (s : State) (p : ParserState) : (s.endSequence p).atEnd = s.atEnd := rfl
@[simp] theorem State.withQueue_readByte (s : State) (q : List Transaction) (a : Nat) : (s.withQueue q).readByte a = s.readByte a := rfl
@[simp] theorem State.withQueue_parserLive (s : State) (q : List Transaction) : (s.withQueue q).parserLive = s.parserLive := rfl
@[simp] theorem State.withQueue_declared (s : State) (q : List Transaction) (k : Nat) : (s.withQueue q).declared k = s.declared k := rfl
@[simp] theorem State.withQueue_atEnd (s : State) (q : List Transaction) : (s.withQueue q).atEnd = s.atEnd := rfl
@[simp] theorem State.hostRead_readByte (s : State) (k a : Nat) : (s.hostRead k).readByte a = s.readByte a := rfl
@[simp] theorem State.hostRead_parserLive (s : State) (k : Nat) : (s.hostRead k).parserLive = s.parserLive := rfl
@[simp] theorem State.hostRead_declared (s : State) (k j : Nat) : (s.hostRead k).declared j = s.declared j := rfl
@[simp] theorem State.hostRead_atEnd (s : State) (k : Nat) : (s.hostRead k).atEnd = s.atEnd := rfl

theorem State.readByte_eq (s : State) (a : Nat) : s.readByte a = s.fb.read a := rfl

end Sys2Proof.Machine
end

