-- ==== Sys2Proof/Laws/Ops.lean ====
section
/-! SUPPORT. One lemma per shared operation that says everything it can do. -/

namespace Sys2Proof.Machine

/-! ## Conditions -/

theorem State.parserLive_iff (s : State) : s.parserLive = true ↔ s.pstate = .scanning ∨ s.pstate = .inRun := by
  unfold State.parserLive
  cases s.pstate <;> simp

theorem State.overflows_iff (s : State) (n : Nat) : s.overflows n = true ↔ 64 < s.flen.toNat + n :=
  decide_eq_true_iff

theorem State.overflows_eq_false_iff (s : State) (n : Nat) : s.overflows n = false ↔ s.flen.toNat + n ≤ 64 := by
  rw [← Bool.not_eq_true, State.overflows_iff, Nat.not_lt]

theorem State.atEnd_iff (s : State) : s.atEnd = true ↔ s.flen.toNat ≤ s.rcur.toNat := by
  simp [State.atEnd, BitVec.le_def]

theorem State.atEnd_eq_false_iff (s : State) : s.atEnd = false ↔ s.rcur.toNat < s.flen.toNat := by
  simp [State.atEnd, BitVec.le_def]

/-! ## Counters that do not wrap -/

theorem State.append_flen_toNat {s : State} {bs : List Byte} (h : s.flen.toNat + bs.length ≤ 64) :
    (s.append bs).flen.toNat = s.flen.toNat + bs.length := by
  simp only [State.append_flen, BitVec.toNat_add, BitVec.toNat_ofNat]
  omega

theorem State.consume_rcur_toNat {s : State} {n : Nat} (h : s.rcur.toNat + n ≤ 64) :
    (s.consume n).rcur.toNat = s.rcur.toNat + n := by
  simp only [State.consume_rcur, BitVec.toNat_add, BitVec.toNat_ofNat]
  omega

theorem State.consume_consume (s : State) (m n : Nat) : (s.consume m).consume n = s.consume (m + n) := by
  simp only [State.consume, BitVec.ofNat_add, BitVec.add_assoc]

/-! ## Checks and errors -/

theorem raise_of_running {s : State} (h : s.fault = false) (e : ErrorKind) : raise e s = .next (s.raised e) := by
  simp [raise, h]

theorem raise_of_faulted {s : State} (h : s.fault = true) (e : ErrorKind) : raise e s = .next s := by
  simp [raise, h]

/-- What `raise` can do. -/
theorem raise_cases {e : ErrorKind} {s : State} {o : Result State} (h : raise e s = o) :
    (s.fault = true ∧ o = .next s) ∨ (s.fault = false ∧ o = .next (s.raised e)) := by
  subst h
  cases hf : s.fault
  · exact .inr ⟨rfl, raise_of_running hf e⟩
  · exact .inl ⟨rfl, raise_of_faulted hf e⟩

theorem unlessFaulted_of_running {s : State} (h : s.fault = false) (k : Result State) : unlessFaulted s k = k := by
  simp [unlessFaulted, h]

theorem unlessFaulted_of_faulted {s : State} (h : s.fault = true) (k : Result State) : unlessFaulted s k = .next s := by
  simp [unlessFaulted, h]

/-- What a command does about the fault state. -/
theorem unlessFaulted_cases {s : State} {k o : Result State} (h : unlessFaulted s k = o) :
    (s.fault = true ∧ o = .next s) ∨ (s.fault = false ∧ k = o) := by
  unfold unlessFaulted at h
  split at h
  · next hf => exact .inl ⟨hf, h.symm⟩
  · next hf => exact .inr ⟨by simpa using hf, h⟩

theorem guardMutation_of_idle {s : State} (h : s.parserLive = false) (k : Result State) : guardMutation s k = k := by
  simp [guardMutation, h]

/-- What the buffer-mutation guard can do. -/
theorem guardMutation_cases {s : State} {k o : Result State} (h : guardMutation s k = o) :
    (s.parserLive = true ∧ raise .illegalCommand s = o) ∨ (s.parserLive = false ∧ k = o) := by
  unfold guardMutation at h
  split at h
  · next hl => exact .inl ⟨hl, h⟩
  · next hl => exact .inr ⟨by simpa using hl, h⟩

/-- What the capacity check can do. -/
theorem checkCapacity_cases {n : Nat} {s : State} {k o : Result State} (h : checkCapacity n s k = o) :
    (64 < s.flen.toNat + n ∧ raise .bufferOverflow s = o) ∨ (s.flen.toNat + n ≤ 64 ∧ k = o) := by
  unfold checkCapacity at h
  split at h
  · next ho => exact .inl ⟨(s.overflows_iff n).1 ho, h⟩
  · next ho => exact .inr ⟨(s.overflows_eq_false_iff n).1 (by simpa using ho), h⟩

theorem withinFrame_of_le {s : State} (h : s.flen.toNat ≤ 64) (k : Result State) : withinFrame s k = k := by
  simp [withinFrame, Config.fbCap, Nat.not_lt.2 h]

/-- What the frame-length check can do. -/
theorem withinFrame_cases {s : State} {k o : Result State} (h : withinFrame s k = o) :
    (64 < s.flen.toNat ∧ o = .fault .frameLengthAbove64) ∨ (s.flen.toNat ≤ 64 ∧ k = o) := by
  unfold withinFrame at h
  split at h
  · next hf => exact .inl ⟨by simpa [Config.fbCap] using hf, h.symm⟩
  · next hf => exact .inr ⟨by simpa [Config.fbCap] using hf, h⟩

/-! ## The quantizer's operands -/

/-- A value quantizes exactly at the resolutions with a payload size, and to that many bytes. -/
theorem quantized?_cases (p : Config.Params) (v : Word64) (res : Resolution) (qty : Quantity) :
    (res = .ignore ∧ quantized? p v res qty = none)
    ∨ (∃ w u, formSize? (valueForm res) = some w ∧ w ≤ 4 ∧ quantized? p v res qty = some (w, u)) := by
  cases res
  · exact .inr ⟨1, _, rfl, by omega, rfl⟩
  · exact .inr ⟨2, _, rfl, by omega, rfl⟩
  · exact .inr ⟨4, _, rfl, by omega, rfl⟩
  · exact .inr ⟨4, _, rfl, by omega, rfl⟩
  · exact .inl ⟨rfl, rfl⟩

/-! ## The combiner -/

@[simp] theorem length_headerBytes (base : Byte) (r : Resolution) (count reg : Nat) :
    (headerBytes base r count reg).length = if count ≤ 3 then 2 else 3 := by
  unfold headerBytes
  split <;> rfl

/-- What the checks of a header can answer (43_combiner.md R146). -/
theorem headerError?_cases (s : State) (count reg : Nat) :
    (headerError? s count reg = some .bufferOverflow)
    ∨ (headerError? s count reg = some .unsupportedAddress ∧ 127 < reg)
    ∨ (headerError? s count reg = none ∧ reg ≤ 127 ∧ s.flen.toNat + (if count ≤ 3 then 2 else 3) ≤ 64) := by
  unfold headerError?
  by_cases h1 : s.overflows (if count ≤ 3 then 1 else 2) = true
  · exact .inl (by simp [h1])
  · by_cases h2 : Config.addrMax < reg
    · exact .inr (.inl ⟨by simp [h1, h2], h2⟩)
    · by_cases h3 : s.overflows ((if count ≤ 3 then 1 else 2) + 1) = true
      · exact .inl (by simp [h1, h2, h3])
      · refine .inr (.inr ⟨by simp [h1, h2, h3], by simpa [Config.addrMax] using h2, ?_⟩)
        have h4 := (s.overflows_eq_false_iff _).1 (Bool.not_eq_true _ ▸ h3)
        split at h4 <;> split <;> omega

/-- What a decision of CMB_STEP can do (43_combiner.md R143). -/
theorem decideRegister_cases {s : State} {o : Result State} (h : decideRegister s = o) :
    (s.declared s.ci.toNat = s.ccur ∧ o = .next (s.decided s.ccur (s.ccur != .ignore)))
    ∨ (s.declared s.ci.toNat ≠ s.ccur ∧ s.declared s.ci.toNat = .ignore ∧ o = .next (s.decided .ignore false))
    ∨ (s.declared s.ci.toNat ≠ s.ccur ∧ s.declared s.ci.toNat ≠ .ignore
      ∧ ∃ e, headerError? s (s.runLength s.ci.toNat) (s.cstart.toNat + s.ci.toNat) = some e ∧ o = raise e s)
    ∨ (s.declared s.ci.toNat ≠ s.ccur ∧ s.declared s.ci.toNat ≠ .ignore
      ∧ headerError? s (s.runLength s.ci.toNat) (s.cstart.toNat + s.ci.toNat) = none
      ∧ o = .next ((s.append (headerBytes s.cbase (s.declared s.ci.toNat) (s.runLength s.ci.toNat)
          (s.cstart.toNat + s.ci.toNat))).decided (s.declared s.ci.toNat) true)) := by
  unfold decideRegister at h
  simp only at h
  split at h
  · next h1 =>
    rw [h1] at h
    exact .inl ⟨h1, h.symm⟩
  · next h1 =>
    split at h
    · next h2 => exact .inr (.inl ⟨h1, h2, h.symm⟩)
    · next h2 =>
      split at h
      · next e he => exact .inr (.inr (.inl ⟨h1, h2, e, he, h.symm⟩))
      · next he => exact .inr (.inr (.inr ⟨h1, h2, he, h.symm⟩))

/-! ## The parser -/

@[simp] theorem framingError_eq (s : State) : framingError s = .next ((s.consume 1).endSequence .error) := rfl

/-- What opening a run can do (44_parser.md R164–R166). -/
theorem openRun_cases (rc : BitVec 2) (count : Byte) (s : State) :
    (s.flen.toNat ≤ s.rcur.toNat ∧ openRun rc count s = s.endSequence .exhausted)
    ∨ (s.rcur.toNat < s.flen.toNat ∧ s.cfg.parseHighReg = .stop ∧ 0x80 ≤ s.cursorByte.toNat
      ∧ openRun rc count s = (s.consume 1).endSequence .error)
    ∨ (s.rcur.toNat < s.flen.toNat ∧ (s.cfg.parseHighReg = .asByte ∨ s.cursorByte.toNat < 0x80)
      ∧ openRun rc count s
        = { s.consume 1 with pres := rc, pnext := s.cursorByte.setWidth 16, prem := count, pstate := .inRun }) := by
  unfold openRun
  by_cases h1 : s.atEnd = true
  · exact .inl ⟨s.atEnd_iff.1 h1, by simp [h1]⟩
  · have h1' := s.atEnd_eq_false_iff.1 (by simpa using h1)
    by_cases h2 : s.cfg.parseHighReg = .stop ∧ 0x80 ≤ s.cursorByte.toNat
    · exact .inr (.inl ⟨h1', h2.1, h2.2, by simp [h1, h2]⟩)
    · refine .inr (.inr ⟨h1', ?_, by simp [h1, h2]⟩)
      cases hp : s.cfg.parseHighReg
      · exact .inl rfl
      · exact .inr (by simp [hp] at h2; omega)

/-- What the long form can do (44_parser.md R165). -/
theorem openLongRun_cases (rc : BitVec 2) (s : State) :
    (s.flen.toNat ≤ s.rcur.toNat ∧ openLongRun rc s = s.endSequence .exhausted)
    ∨ (s.rcur.toNat < s.flen.toNat ∧ s.cursorByte = 0#8 ∧ openLongRun rc s = s.consume 1)
    ∨ (s.rcur.toNat < s.flen.toNat ∧ s.cursorByte ≠ 0#8
      ∧ openLongRun rc s = openRun rc s.cursorByte (s.consume 1)) := by
  unfold openLongRun
  by_cases h1 : s.atEnd = true
  · exact .inl ⟨s.atEnd_iff.1 h1, by simp [h1]⟩
  · have h1' := s.atEnd_eq_false_iff.1 (by simpa using h1)
    by_cases h2 : s.cursorByte = 0#8
    · exact .inr (.inl ⟨h1', h2, by simp [h1, h2]⟩)
    · exact .inr (.inr ⟨h1', h2, by simp [h1, h2]⟩)

/-- What one wire opcode can do: skip a filler, end the sequence with a framing error, or run a reply header. -/
theorem runWire_cases (b : Byte) (s : State) :
    (wireFamily b = .filler ∧ runWire b s = .next (s.consume 1))
    ∨ (wireFamily b = .reply ∧ runWire b s = execMuxReply (wireRC b) (wireC b) s)
    ∨ (wireFamily b ≠ .filler ∧ wireFamily b ≠ .reply ∧ runWire b s = framingError s) := by
  cases h : wireFamily b <;> simp [runWire, h, execMuxWrite, execMuxRead, execMuxError, execTunnel, execNop,
    execUnassigned6, execUnassigned7, execUnassigned8, execUnassigned9, execUnassignedA, execUnassignedB,
    execUnassignedC, execUnassignedD, execUnassignedE, execUnassignedF]

/-- The wire opcode at the cursor is the instruction its byte decodes to. -/
theorem runWire_eq_exec (b : Byte) (s : State) : runWire b s = exec (decodeWire b) s := by
  unfold runWire decodeWire
  cases wireFamily b <;> rfl

/-- What an open run can do (the InRun part of 44_parser.md R162). -/
theorem yieldElement_cases {s : State} {o : Result State} (h : yieldElement s = o) :
    (s.prem = 0#8 ∧ o = .fault .emptyRun)
    ∨ (s.prem ≠ 0#8 ∧ s.flen.toNat < s.rcur.toNat + wireSize s.pres ∧ o = .next (s.endSequence .exhausted))
    ∨ (s.prem ≠ 0#8 ∧ s.rcur.toNat + wireSize s.pres ≤ s.flen.toNat ∧ s.pnext = 0xFFFF#16 ∧ o = .fault .registerIdAtTop)
    ∨ (s.prem ≠ 0#8 ∧ s.rcur.toNat + wireSize s.pres ≤ s.flen.toNat ∧ s.pnext ≠ 0xFFFF#16
      ∧ o = .next { s.consume (wireSize s.pres) with
          dout := element s.pnext s.pres (s.fb.readLE s.rcur.toNat (wireSize s.pres))
          pnext := s.pnext + 1#16
          prem := s.prem - 1#8
          pstate := if s.prem = 1#8 then .scanning else .inRun }) := by
  unfold yieldElement at h
  simp only at h
  split at h
  · next h1 => exact .inl ⟨h1, h.symm⟩
  · next h1 =>
    split at h
    · next h2 => exact .inr (.inl ⟨h1, h2, h.symm⟩)
    · next h2 =>
      split at h
      · next h3 => exact .inr (.inr (.inl ⟨h1, Nat.not_lt.1 h2, h3, h.symm⟩))
      · next h3 => exact .inr (.inr (.inr ⟨h1, Nat.not_lt.1 h2, h3, h.symm⟩))

/-! ## The host's side -/

/-- What a command word can do (10_state.md R33, 60_exceptions.md R204, 30_encoding.md R73). -/
theorem runCommand_cases {w : Word32} {s : State} {o : Result State} (h : runCommand w s = o) :
    (s.fault = true ∧ w = 0x00000001#32 ∧ o = .next s.resetAll)
    ∨ (s.fault = true ∧ w ≠ 0x00000001#32 ∧ o = .next s)
    ∨ (s.fault = false ∧ ∃ i, decodeCommand w = .ok i ∧ o = exec i s)
    ∨ (s.fault = false ∧ ∃ why, decodeCommand w = .error why ∧ o = .next (s.raised .illegalCommand)) := by
  unfold runCommand at h
  split at h
  · next hf =>
    split at h
    · next hw => exact .inl ⟨hf, hw, h.symm⟩
    · next hw => exact .inr (.inl ⟨hf, hw, h.symm⟩)
  · next hf =>
    have hf' : s.fault = false := by simpa using hf
    split at h
    · next i hi => exact .inr (.inr (.inl ⟨hf', i, hi, h.symm⟩))
    · next why hw => exact .inr (.inr (.inr ⟨hf', why, hw, by rw [← h, raise_of_running hf']⟩))

/-- What a host write can do (10_state.md R33). -/
theorem hostWrite_cases {k : Nat} {v : Word64} {s : State} {o : Result State} (h : hostWrite k v s = o) :
    (k = 0 ∧ runCommand (v.setWidth 32) s = o) ∨ (k = 1 ∧ o = .next { s with din := v }) ∨ (2 ≤ k ∧ o = .next s) := by
  unfold hostWrite at h
  split at h
  · exact .inl ⟨rfl, h⟩
  · exact .inr (.inl ⟨rfl, h.symm⟩)
  · next h0 h1 =>
    refine .inr (.inr ⟨?_, h.symm⟩)
    rcases k with _ | _ | k
    · exact absurd rfl h0
    · exact absurd rfl h1
    · omega

/-- What a step can do: wait, or serve the oldest pending access. -/
theorem step_cases {s : State} {o : Host.Outcome State Fault Refusal} (h : step s = o) :
    (s.port.queue = [] ∧ o = .next s)
    ∨ (∃ t rest, s.port.queue = t :: rest ∧ serve t (s.withQueue rest) = o) := by
  unfold step serveNext at h
  split at h
  · next hq => exact .inl ⟨hq, h.symm⟩
  · next t rest hq => exact .inr ⟨t, rest, hq, h⟩

end Sys2Proof.Machine
end

