-- ==== Sys2Proof/Laws/PerInstr.lean ====
section
/-! SUPPORT. Statements for every instruction, one lemma per constructor of Instr. -/

namespace Sys2Proof.Laws.EncodingMatchesTable

/-- The row of spec/opcode_table.json: its mask and its match value. -/
def row : Instr → Encoded × Encoded
  | .reset => (.command 0xFFFFFFFF#32, .command 0x00000001#32)
  | .fbClear => (.command 0xFFFFFFFF#32, .command 0x00000002#32)
  | .fbPut _ _ => (.command 0x00C0FFFF#32, .command 0x00000003#32)
  | .fbGet _ => (.command 0xFFC0FFFF#32, .command 0x00000004#32)
  | .fbSetlen _ => (.command 0xFF80FFFF#32, .command 0x00000005#32)
  | .fbAppendRaw _ => (.command 0xFFFFF8FF#32, .command 0x00000006#32)
  | .fbAppendQ _ _ => (.command 0xFFFFC0FF#32, .command 0x00000007#32)
  | .qQuant _ _ => (.command 0xFFFFC0FF#32, .command 0x00000010#32)
  | .qDequant _ _ => (.command 0xFFFFC0FF#32, .command 0x00000011#32)
  | .cmbInit _ => (.command 0xFF00FFFF#32, .command 0x00000020#32)
  | .cmbDecl _ => (.command 0xFFFFF8FF#32, .command 0x00000021#32)
  | .cmbStep => (.command 0xFFFFFFFF#32, .command 0x00000022#32)
  | .cmbEnd => (.command 0xFFFFFFFF#32, .command 0x00000023#32)
  | .prsInit => (.command 0xFFFFFFFF#32, .command 0x00000030#32)
  | .prsNext => (.command 0xFFFFFFFF#32, .command 0x00000031#32)
  | .muxWrite _ _ => (.wire 0xF0#8, .wire 0x00#8)
  | .muxRead _ _ => (.wire 0xF0#8, .wire 0x10#8)
  | .muxReply _ _ => (.wire 0xF0#8, .wire 0x20#8)
  | .muxError _ => (.wire 0xF0#8, .wire 0x30#8)
  | .tunnel _ => (.wire 0xF0#8, .wire 0x40#8)
  | .nop _ => (.wire 0xF0#8, .wire 0x50#8)
  | .unassigned6 _ => (.wire 0xF0#8, .wire 0x60#8)
  | .unassigned7 _ => (.wire 0xF0#8, .wire 0x70#8)
  | .unassigned8 _ => (.wire 0xF0#8, .wire 0x80#8)
  | .unassigned9 _ => (.wire 0xF0#8, .wire 0x90#8)
  | .unassignedA _ => (.wire 0xF0#8, .wire 0xA0#8)
  | .unassignedB _ => (.wire 0xF0#8, .wire 0xB0#8)
  | .unassignedC _ => (.wire 0xF0#8, .wire 0xC0#8)
  | .unassignedD _ => (.wire 0xF0#8, .wire 0xD0#8)
  | .unassignedE _ => (.wire 0xF0#8, .wire 0xE0#8)
  | .unassignedF _ => (.wire 0xF0#8, .wire 0xF0#8)

/-- An encoding under a mask, of its own format. -/
def masked : Encoded → Encoded → Option Encoded
  | .command w, .command m => some (.command (w &&& m))
  | .wire b, .wire m => some (.wire (b &&& m))
  | .command _, .wire _ => none
  | .wire _, .command _ => none

/-- The encoding of an instruction carries the fixed bits of its row of the opcode table. -/
def Statement (i : Instr) : Prop := masked (encode i) (row i).1 = some (row i).2

theorem reset : Statement .reset := rfl
theorem fbClear : Statement .fbClear := rfl
theorem fbPut (idx : BitVec 6) (byte : Byte) : Statement (.fbPut idx byte) := by
  simp only [Statement, masked, row, encode, commandWord, Option.some.injEq, Encoded.command.injEq]
  ext k hk
  interval_cases k <;> simp [Opcode.code]
theorem fbGet (idx : BitVec 6) : Statement (.fbGet idx) := by
  revert idx
  unfold Statement
  decide
theorem fbSetlen (len : BitVec 7) : Statement (.fbSetlen len) := by
  revert len
  unfold Statement
  decide
theorem fbAppendRaw (res : Resolution) : Statement (.fbAppendRaw res) := by
  cases res <;> rfl
theorem fbAppendQ (res : Resolution) (qty : Quantity) : Statement (.fbAppendQ res qty) := by
  cases res <;> cases qty <;> rfl
theorem qQuant (res : Resolution) (qty : Quantity) : Statement (.qQuant res qty) := by
  cases res <;> cases qty <;> rfl
theorem qDequant (res : Resolution) (qty : Quantity) : Statement (.qDequant res qty) := by
  cases res <;> cases qty <;> rfl
theorem cmbInit (base : Byte) : Statement (.cmbInit base) := by
  revert base
  unfold Statement
  decide
theorem cmbDecl (res : Resolution) : Statement (.cmbDecl res) := by
  cases res <;> rfl
theorem cmbStep : Statement .cmbStep := rfl
theorem cmbEnd : Statement .cmbEnd := rfl
theorem prsInit : Statement .prsInit := rfl
theorem prsNext : Statement .prsNext := rfl
theorem muxWrite (rc c : BitVec 2) : Statement (.muxWrite rc c) := by
  revert rc c
  unfold Statement
  decide
theorem muxRead (rc c : BitVec 2) : Statement (.muxRead rc c) := by
  revert rc c
  unfold Statement
  decide
theorem muxReply (rc c : BitVec 2) : Statement (.muxReply rc c) := by
  revert rc c
  unfold Statement
  decide
theorem muxError (low : BitVec 4) : Statement (.muxError low) := by
  revert low
  unfold Statement
  decide
theorem tunnel (low : BitVec 4) : Statement (.tunnel low) := by
  revert low
  unfold Statement
  decide
theorem nop (low : BitVec 4) : Statement (.nop low) := by
  revert low
  unfold Statement
  decide
theorem unassigned6 (low : BitVec 4) : Statement (.unassigned6 low) := by
  revert low
  unfold Statement
  decide
theorem unassigned7 (low : BitVec 4) : Statement (.unassigned7 low) := by
  revert low
  unfold Statement
  decide
theorem unassigned8 (low : BitVec 4) : Statement (.unassigned8 low) := by
  revert low
  unfold Statement
  decide
theorem unassigned9 (low : BitVec 4) : Statement (.unassigned9 low) := by
  revert low
  unfold Statement
  decide
theorem unassignedA (low : BitVec 4) : Statement (.unassignedA low) := by
  revert low
  unfold Statement
  decide
theorem unassignedB (low : BitVec 4) : Statement (.unassignedB low) := by
  revert low
  unfold Statement
  decide
theorem unassignedC (low : BitVec 4) : Statement (.unassignedC low) := by
  revert low
  unfold Statement
  decide
theorem unassignedD (low : BitVec 4) : Statement (.unassignedD low) := by
  revert low
  unfold Statement
  decide
theorem unassignedE (low : BitVec 4) : Statement (.unassignedE low) := by
  revert low
  unfold Statement
  decide
theorem unassignedF (low : BitVec 4) : Statement (.unassignedF low) := by
  revert low
  unfold Statement
  decide

end Sys2Proof.Laws.EncodingMatchesTable
end

