-- ==== Sys2Proof/Tests/Slice0.lean ====
section
/-! SUPPORT. Tests: expected values come from spec/95_test_vectors.md (named by their ids there), from the examples inside
the rules, or from the opcode table; and a witness for the hypotheses of every statement that has some. -/

namespace Sys2Proof.Tests

open Sys2Proof.Machine

/-! ## Helpers -/

/-- One command transaction, as one step. -/
def issue (cmd : Word32) (din : Word64) (s : State) : Host.Outcome State Fault Refusal :=
  step (s.withQueue [.issue cmd din])

/-- A field of the next state. -/
def field {α : Type} (f : State → α) : Host.Outcome State Fault Refusal → Option α
  | .next s => some (f s)
  | .fault _ => none
  | .refused _ => none

/-- Whether a decoding is this rejection. -/
def rejects (why : Reject) : Except Reject Instr → Bool
  | .ok _ => false
  | .error e => e = why

/-- Whether a decoding is this instruction. -/
def decodes (i : Instr) : Except Reject Instr → Bool
  | .ok j => j = i
  | .error _ => false

/-- A combiner right after CMB_INIT and the given declarations. -/
def combiner (start : BitVec 16) (rs : List Resolution) : State :=
  { State.reset with
    cact := true, cstart := start, cn := BitVec.ofNat 8 rs.length
    cres := Vector.ofFn fun k : Fin 255 => rs.getD k .ignore }

/-- A parser scanning from the first byte of a frame. -/
def parsing (bytes : List Byte) : State :=
  { State.reset with fb := Memory.writeBytes [] 0 bytes, flen := BitVec.ofNat 7 bytes.length, pstate := .scanning }

/-- A faulted machine. -/
def faulted : State := { State.reset with fault := true, err := .illegalCommand }

/-! ## Well-formedness: each check refuses an ill-formed term -/

theorem test_setlen_65_ill_formed : ¬(Instr.fbSetlen 65#7).WellFormed ∧ (Instr.fbSetlen 64#7).WellFormed := by decide

theorem test_init_0x30_ill_formed : ¬(Instr.cmbInit 0x30#8).WellFormed ∧ (Instr.cmbInit 0x20#8).WellFormed := by decide

/-! ## Decoding: the words of R71, R72 and of the opcode table, written out -/

theorem test_decode_control : decodes .reset (decodeCommand 0x00000001#32) := by decide

theorem test_decode_frame_port :
    decodes .fbClear (decodeCommand 0x00000002#32) ∧ decodes (.fbPut 3#6 0x7F#8) (decodeCommand 0x7F030003#32)
    ∧ decodes (.fbGet 63#6) (decodeCommand 0x003F0004#32) ∧ decodes (.fbSetlen 64#7) (decodeCommand 0x00400005#32) := by
  decide

theorem test_decode_frame_writer :
    decodes (.fbAppendRaw .int16) (decodeCommand 0x00000106#32)
    ∧ decodes (.fbAppendQ .int16 .velocity) (decodeCommand 0x00000907#32)
    ∧ decodes (.fbAppendQ .ignore .position) (decodeCommand 0x00000407#32) := by
  decide

theorem test_decode_quantizer :
    decodes (.qQuant .int32 .current) (decodeCommand 0x00003A10#32)
    ∧ decodes (.qDequant .int32 .pwm) (decodeCommand 0x00001A11#32) := by
  decide

theorem test_decode_combiner :
    decodes (.cmbInit 0x10#8) (decodeCommand 0x00100020#32) ∧ decodes (.cmbDecl .float) (decodeCommand 0x00000321#32)
    ∧ decodes .cmbStep (decodeCommand 0x00000022#32) ∧ decodes .cmbEnd (decodeCommand 0x00000023#32) := by
  decide

theorem test_decode_parser :
    decodes .prsInit (decodeCommand 0x00000030#32) ∧ decodes .prsNext (decodeCommand 0x00000031#32) := by
  decide

theorem test_decode_wire_multiplex :
    decodeWire 0x06#8 = .muxWrite 1#2 2#2 ∧ decodeWire 0x1C#8 = .muxRead 3#2 0#2 ∧ decodeWire 0x2B#8 = .muxReply 2#2 3#2 := by
  decide

theorem test_decode_wire_other :
    decodeWire 0x3A#8 = .muxError 0xA#4 ∧ decodeWire 0x40#8 = .tunnel 0#4 ∧ decodeWire 0x5F#8 = .nop 0xF#4
    ∧ decodeWire 0x61#8 = .unassigned6 1#4 ∧ decodeWire 0x72#8 = .unassigned7 2#4 ∧ decodeWire 0x83#8 = .unassigned8 3#4
    ∧ decodeWire 0x94#8 = .unassigned9 4#4 ∧ decodeWire 0xA5#8 = .unassignedA 5#4 ∧ decodeWire 0xB6#8 = .unassignedB 6#4
    ∧ decodeWire 0xC7#8 = .unassignedC 7#4 ∧ decodeWire 0xD8#8 = .unassignedD 8#4 ∧ decodeWire 0xE9#8 = .unassignedE 9#4
    ∧ decodeWire 0xFF#8 = .unassignedF 0xF#4 := by
  decide

/-- E1, E2, E3, W12, K23: one word per check of R73. -/
theorem test_illegal_words :
    rejects .reservedOpcode (decodeCommand 0x00000000#32) ∧ rejects .unusedBit (decodeCommand 0x00004002#32)
    ∧ rejects .reservedResolution (decodeCommand 0x00000510#32) ∧ rejects .lengthAbove64 (decodeCommand 0x00410005#32)
    ∧ rejects .illegalBase (decodeCommand 0x00300020#32) := by
  decide

theorem test_decodeTableWord :
    decodeTableWord 32 0x00000907 = some (.fbAppendQ .int16 .velocity) ∧ decodeTableWord 8 0x29 = some (.muxReply 2#2 1#2)
    ∧ decodeTableWord 32 0 = none ∧ decodeTableWord 16 1 = none := by
  decide

/-! ## Control and errors -/

/-- E10 and E7: RESET clears the fault state. -/
theorem test_reset_clears_fault : field State.statusView (issue 0x00000001#32 5#64 faulted) = some 0x00000400#32 := by decide

/-- E7: a word that is not exactly 0x00000001 is ignored while faulted; E8: DIN is still written. -/
theorem test_faulted_word_ignored :
    field (fun s => (s.fault, s.err, s.din)) (issue 0x00000101#32 9#64 faulted) = some (true, .illegalCommand, 9#64) := by
  decide

/-- W12: FB_SETLEN len=65 raises IllegalCommand, STATUS = 0x0000040B. -/
theorem test_illegal_word_status : field State.statusView (issue 0x00410005#32 0#64 .reset) = some 0x0000040B#32 := by decide

/-! ## The byte port and the writer -/

/-- R121's example: FLEN = 7, FB_CLEAR. -/
theorem test_fbClear :
    field (fun s => (s.flen, s.rcur, s.pstate)) (issue 0x00000002#32 0#64 (parsing [0x21#8, 0#8, 1#8])) = some (0#7, 0#7, .idle) := by
  decide

/-- R122's example. -/
theorem test_fbPut : field (fun s => s.readByte 3) (issue 0x7F030003#32 0#64 .reset) = some 0x7F#8 := by decide

/-- W18: a live parser refuses FB_PUT, STATUS = 0x0000042B. -/
theorem test_fbPut_guarded :
    field State.statusView (issue 0x55010003#32 0#64 (parsing [])) = some 0x0000042B#32 := by
  decide

/-- W9: a byte beyond FLEN is read. -/
theorem test_fbGet :
    field State.dout (issue 0x003F0004#32 0#64 { State.reset with fb := [(63, 0xAB#8)] }) = some 0xAB#64 := by
  decide

/-- W11: FB_SETLEN len=64 is legal. -/
theorem test_fbSetlen : field (fun s => (s.flen, s.fault)) (issue 0x00400005#32 0#64 .reset) = some (64#7, false) := by decide

/-- R126's example: little-endian. -/
theorem test_fbAppendRaw :
    field (fun s => (s.readByte 0, s.readByte 1, s.readByte 2, s.flen)) (issue 0x00000106#32 0xFFFF1234#64 .reset)
      = some (0x34#8, 0x12#8, 0#8, 2#7) := by
  decide

/-- W15: BufferOverflow at FLEN = 61, nothing written. -/
theorem test_fbAppendRaw_overflow :
    field (fun s => (s.statusView, s.flen, s.readByte 61)) (issue 0x00000206#32 0x11223344#64 { State.reset with flen := 61#7 })
      = some (0x00000403#32, 61#7, 0#8) := by
  decide

/-- R127's example: 0.05 at Int8 position appends 0x05 at FLEN = 3. -/
theorem test_fbAppendQ :
    field (fun s => (s.readByte 3, s.flen, s.dout)) (issue 0x00000007#32 0x3FA999999999999A#64 { State.reset with flen := 3#7 })
      = some (0x05#8, 4#7, 0#64) := by
  decide +kernel

/-- W17: InvalidResolution comes before BufferOverflow. -/
theorem test_fbAppendQ_ignore :
    field State.err (issue 0x00000407#32 0#64 { State.reset with flen := 64#7 }) = some .invalidResolution := by
  decide

/-! ## The quantizer -/

/-- Q2 (truncation toward zero) and Q14 (one place below the clamp, conflict C4). -/
theorem test_qQuant_truncates :
    field State.dout (issue 0x00000010#32 0xBFE23D70A3D70A3D#64 .reset) = some 0xC8#64
    ∧ field State.dout (issue 0x00000110#32 0x400A36AE7D566CF4#64 .reset) = some 0x7FFE#64 := by
  decide +kernel

/-- Q25 (−128.0 clamps to −127), Q6 (the sentinel), Q22 (the quotient overflows), F8 (the tie at the largest binary32). -/
theorem test_qQuant_limits :
    field State.dout (issue 0x00002810#32 0xC060000000000000#64 .reset) = some 0x81#64
    ∧ field State.dout (issue 0x00000110#32 0xFFF0000000000000#64 .reset) = some 0x8000#64
    ∧ field State.dout (issue 0x00000210#32 0x7F423A516E82D9BA#64 .reset) = some 0x7FFFFFFF#64
    ∧ field State.dout (issue 0x00000310#32 0x47EFFFFFF0000000#64 .reset) = some 0x7F800000#64 := by
  decide +kernel

/-- U3, U6 (upper bits ignored), U2 (the sentinel). -/
theorem test_qDequant_integer :
    field State.dout (issue 0x00000011#32 0x81#64 .reset) = some 0xBFF451EB851EB852#64
    ∧ field State.dout (issue 0x00000011#32 0xFFFFFFFFFFFFFF0A#64 .reset) = some 0x3FB999999999999A#64
    ∧ field State.dout (issue 0x00000011#32 0x80#64 .reset) = some 0x7FF8000000000000#64 := by
  decide +kernel

/-- U24 (the least subnormal), U22 (a signalling NaN is quieted, its payload kept). -/
theorem test_qDequant_float :
    field State.dout (issue 0x00000311#32 0x00000001#64 .reset) = some 0x36A0000000000000#64
    ∧ field State.dout (issue 0x00000311#32 0x7F800001#64 .reset) = some 0x7FF8000020000000#64 := by
  decide +kernel

/-! ## The combiner -/

/-- R141's example. -/
theorem test_cmbInit :
    field (fun s => (s.cact, s.cbase, s.cstart, s.cn, s.ci)) (issue 0x00100020#32 0x10005#64 .reset)
      = some (true, 0x10#8, 5#16, 0#8, 0#8) := by
  decide

/-- K26: the teardown of an unfinished combiner, STATUS = 0x00000419. -/
theorem test_cmbInit_unfinished :
    field State.statusView (issue 0x00000020#32 0#64 (combiner 0#16 [.int8])) = some 0x00000419#32 := by
  decide +kernel

/-- R142's example. -/
theorem test_cmbDecl :
    field (fun s => (s.declared 0, s.cn)) (issue 0x00000221#32 0#64 (combiner 0#16 [])) = some (.int32, 1#8) := by
  decide +kernel

/-- K2: four Int8 make the long form 00 04 10. -/
theorem test_cmbStep_long :
    field (fun s => (s.readByte 0, s.readByte 1, s.readByte 2, s.flen, s.dout, s.ci))
      (issue 0x00000022#32 0#64 (combiner 0x10#16 [.int8, .int8, .int8, .int8]))
      = some (0x00#8, 0x04#8, 0x10#8, 3#7, 1#64, 1#8) := by
  decide +kernel

/-- K15: the address is checked before the room for the register byte. -/
theorem test_cmbStep_address_first :
    field (fun s => (s.err, s.flen, s.ci)) (issue 0x00000022#32 0#64 { combiner 200#16 [.int8] with flen := 63#7 })
      = some (.unsupportedAddress, 63#7, 0#8) := by
  decide +kernel

/-- R145's example: two declarations, no step, CMB_END; and K7: no declaration, CMB_END. -/
theorem test_cmbEnd :
    field State.err (issue 0x00000023#32 0#64 (combiner 0#16 [.int8, .int8])) = some .internalContractViolation
    ∧ field (fun s => (s.cact, s.err)) (issue 0x00000023#32 0#64 (combiner 0#16 [])) = some (false, .none) := by
  decide +kernel

/-! ## The parser -/

/-- R161's example. -/
theorem test_prsInit :
    field State.statusView (issue 0x00000030#32 0#64 .reset) = some 0x00000420#32 := by
  decide

/-- X1: the first element of 21 00 0A. -/
theorem test_prsNext_yields :
    field (fun s => (s.dout, s.rcur, s.pstate)) (issue 0x00000031#32 0#64 (parsing [0x21#8, 0x00#8, 0x0A#8]))
      = some (0x800000000000000A#64, 3#7, .scanning) := by
  decide

/-- X8: a partial payload is not consumed; PREM and PNEXT keep the run. -/
theorem test_prsNext_truncated :
    field (fun s => (s.dout, s.rcur, s.pstate, s.prem, s.pnext)) (issue 0x00000031#32 0#64 (parsing [0x25#8, 0x03#8, 0x34#8]))
      = some (0#64, 2#7, .exhausted, 1#8, 3#16) := by
  decide

/-- X16: under PARSE_HIGH_REG = STOP the frame 21 80 01 ends with ERROR, RCUR = 2. -/
theorem test_prsNext_stop :
    field (fun s => (s.dout, s.rcur, s.pstate)) (issue 0x00000031#32 0#64
      { parsing [0x21#8, 0x80#8, 0x01#8] with cfg := { Config.defaults with parseHighReg := .stop } })
      = some (0#64, 2#7, .error) := by
  decide

/-- X2's first byte: a filler is consumed; X22's first two bytes: an empty command is consumed. -/
theorem test_wire_skipped :
    field (fun s => (s.rcur, s.pstate)) (exec (.nop 0#4) (parsing [0x50#8, 0x5F#8])) = some (1#7, .scanning)
    ∧ field (fun s => (s.rcur, s.pstate)) (exec (.muxReply 2#2 0#2) (parsing [0x28#8, 0x00#8, 0x05#8])) = some (2#7, .scanning) := by
  decide

/-- X9–X14: one byte of each family that is a framing error. -/
theorem test_wire_framing_errors :
    [0x00#8, 0x10#8, 0x30#8, 0x40#8, 0x60#8, 0x70#8, 0x80#8, 0x90#8, 0xA0#8, 0xB0#8, 0xC0#8, 0xD0#8, 0xE0#8, 0xFF#8].all
      (fun b => field (fun s => (s.rcur, s.pstate, s.dout)) (step ((parsing []).withFetchWord 8 b.toNat)) = some (1#7, .error, 0#64)) := by
  decide

/-! ## The host's side -/

/-- R33: a read of STATUS; a read above index 5 returns 0; a write of a read-only register does nothing. -/
theorem test_host_registers :
    field (fun s => s.port.rdata) (serve (.read 3) .reset) = some 0x400#64
    ∧ field (fun s => s.port.rdata) (serve (.read 6) { State.reset with port := { State.reset.port with rdata := 7#64 } }) = some 0#64
    ∧ field State.dout (serve (.write 2 7#64) .reset) = some 0#64 := by
  decide

/-- R94: PARSE_ALL over the frame of X23. -/
theorem test_parseAll :
    (parseAll (parsing [0x24#8, 0x01#8, 0x11#8, 0x34#8, 0x12#8])).1 = [0x8001001100001234#64] := by
  decide +kernel

/-- The last register views of program P1 (95_test_vectors.md): LENS and AUX. -/
theorem test_views :
    ({ combiner 0x10#16 [.int8, .int8, .int8, .int8] with flen := 7#7, ci := 4#8 } : State).lensView = 0x04040007#32
    ∧ (combiner 0x10#16 []).auxView = 0x0000000000100000#64 := by
  decide +kernel

/-! ## Witnesses: states and operands that meet the hypotheses of the statements -/

/-- For Obligations.LegalWordIsItsEncoding: the largest legal LEN, and the last legal base. -/
theorem test_witness_legal_word :
    decodeCommand 0x00400005#32 = .ok (.fbSetlen 64#7) ∧ decodeCommand 0x00200020#32 = .ok (.cmbInit 0x20#8) :=
  ⟨rfl, rfl⟩

/-- For Obligations.IllegalWordsInOrder, its first clause. -/
theorem test_witness_reserved_opcode : ∀ op : Opcode, op.code ≠ fieldOp 0x00000032#32 := by
  intro op
  cases op <;> decide

/-- For Obligations.IllegalWordsInOrder: the unused bit 22 of FB_GET, RES = 5, LEN = 65, BASE = 0x30. -/
theorem test_witness_illegal_words :
    (Opcode.fbGet.code = fieldOp 0x00400004#32 ∧ 0x00400004#32 &&& ~~~Opcode.fbGet.usedBits ≠ 0#32)
    ∧ (Opcode.qQuant.code = fieldOp 0x00000510#32 ∧ 0x00000510#32 &&& ~~~Opcode.qQuant.usedBits = 0#32
      ∧ 5 ≤ (fieldRes 0x00000510#32).toNat)
    ∧ (Opcode.fbSetlen.code = fieldOp 0x00410005#32 ∧ 0x00410005#32 &&& ~~~Opcode.fbSetlen.usedBits = 0#32
      ∧ 64 < (fieldLen 0x00410005#32).toNat)
    ∧ (Opcode.cmbInit.code = fieldOp 0x00300020#32 ∧ 0x00300020#32 &&& ~~~Opcode.cmbInit.usedBits = 0#32
      ∧ fieldBase 0x00300020#32 ∉ [0x00#8, 0x10#8, 0x20#8]) := by
  decide

/-- For Obligations.IllegalWordsInOrder, its last clause: RES = 4, LEN = 64, BASE = 0x20 pass. -/
theorem test_witness_legal_fields :
    (Opcode.cmbDecl.code = fieldOp 0x00000421#32 ∧ 0x00000421#32 &&& ~~~Opcode.cmbDecl.usedBits = 0#32
      ∧ (fieldRes 0x00000421#32).toNat < 5)
    ∧ (Opcode.fbSetlen.code = fieldOp 0x00400005#32 ∧ 0x00400005#32 &&& ~~~Opcode.fbSetlen.usedBits = 0#32
      ∧ (fieldLen 0x00400005#32).toNat ≤ 64)
    ∧ (Opcode.cmbInit.code = fieldOp 0x00200020#32 ∧ 0x00200020#32 &&& ~~~Opcode.cmbInit.usedBits = 0#32
      ∧ fieldBase 0x00200020#32 ∈ [0x00#8, 0x10#8, 0x20#8]) := by
  decide

/-- For Obligations.StepRunsDecodedCommand. -/
theorem test_witness_step_decoded :
    (State.reset.withQueue [.issue 0x00000030#32 1#64]).port.queue = [.issue 0x00000030#32 1#64]
    ∧ (State.reset.withQueue [.issue 0x00000030#32 1#64]).fault = false ∧ decodeCommand 0x00000030#32 = .ok .prsInit :=
  ⟨rfl, rfl, rfl⟩

/-- For Obligations.IllegalWordRaises. -/
theorem test_witness_step_illegal :
    (State.reset.withQueue [.issue 0x00000000#32 1#64]).port.queue = [.issue 0x00000000#32 1#64]
    ∧ (State.reset.withQueue [.issue 0x00000000#32 1#64]).fault = false
    ∧ decodeCommand 0x00000000#32 = .error .reservedOpcode :=
  ⟨rfl, rfl, rfl⟩

/-- For Obligations.FaultedWordHasNoEffect, both clauses, the first at a RESET word with another bit set (E7). -/
theorem test_witness_faulted_word :
    (faulted.withQueue [.issue 0x00000101#32 1#64]).port.queue = [.issue 0x00000101#32 1#64]
    ∧ (faulted.withQueue [.issue 0x00000001#32 1#64]).port.queue = [.issue 0x00000001#32 1#64]
    ∧ (faulted.withQueue [.issue 0x00000001#32 1#64]).fault = true ∧ 0x00000101#32 ≠ 0x00000001#32 := by
  decide

/-- For Obligations.FaultedCommandChangesNothing, FaultLeavesOnlyByReset and RaiseRecordsFirstError. -/
theorem test_witness_faulted :
    isCommand .cmbStep = true ∧ Instr.cmbStep ≠ .reset ∧ faulted.fault = true ∧ State.reset.fault = false
    ∧ field State.fault (step faulted) = some true
    ∧ field State.fault (step (faulted.withQueue [.hardwareReset])) = some false := by
  decide

/-- For Obligations.StepKeepsInvariant, StepAlwaysCompletes and ParseAllEnds: reset, a live parser with a frame and a
PRS_NEXT pending, and an open run at its last element. -/
theorem test_witness_invariant :
    State.reset.Inv
    ∧ ((parsing [0x21#8, 0x00#8, 0x0A#8]).withQueue [.issue 0x00000031#32 0#64]).Inv
    ∧ ({ parsing [0x21#8, 0xFF#8, 0x0A#8] with rcur := 2#7, pstate := .inRun, prem := 1#8, pnext := 509#16 } : State).Inv
    ∧ field State.dout (step ((parsing [0x21#8, 0x00#8, 0x0A#8]).withQueue [.issue 0x00000031#32 0#64]))
      = some 0x800000000000000A#64 := by
  decide +kernel

/-- For FbClearEmptiesFrame, FbPutStoresOneByte, FbGetReadsOneByte, FbSetlenSetsLength (at 64), PrsInitCreatesParser. -/
theorem test_witness_port :
    State.reset.fault = false ∧ State.reset.parserLive = false ∧ State.reset.fb.wf = true ∧ (64#7).toNat ≤ 64 := by
  decide

/-- For Obligations.MutationGuardComesFirst: both live states. -/
theorem test_witness_live :
    (parsing []).fault = false ∧ (parsing []).pstate = .scanning
    ∧ ({ parsing [] with pstate := .inRun } : State).pstate = .inRun := by
  decide

/-- For AppendRawStoresLittleEndian, AppendQStoresWhatQuantGives and LittleEndianReadAfterAppend: filling the frame exactly
with four bytes; for AppendErrorsInOrder: one byte too many. -/
theorem test_witness_append :
    (Resolution.float, 4) ∈ [(Resolution.int8, 1), (.int16, 2), (.int32, 4), (.float, 4)]
    ∧ ({ State.reset with flen := 60#7 } : State).flen.toNat + 4 ≤ 64
    ∧ 64 < ({ State.reset with flen := 61#7 } : State).flen.toNat + 4
    ∧ ({ State.reset with flen := 60#7 } : State).fault = false ∧ ({ State.reset with flen := 60#7 } : State).parserLive = false
    ∧ ({ State.reset with flen := 60#7 } : State).fb.wf = true
    ∧ field State.dout (exec (.qQuant .float .position) { State.reset with flen := 60#7 }) = some 0#64 := by
  decide

/-- For Obligations.QuantizeInteger: a scale is finite, and values below, above and inside the clamp, a NaN and an
infinity. -/
theorem test_witness_quantizeInteger :
    unpack64 (Config.defaults.scale.entry .temperature .int8).bits = .finite ⟨false, 2 ^ 52, -52⟩
    ∧ unpack64 0xC060000000000000#64 = .finite ⟨true, 2 ^ 52, -45⟩
    ∧ (unpack64 (f64Div ⟨true, 2 ^ 52, -45⟩ ⟨false, 2 ^ 52, -52⟩)).ltInt (-127) = true
    ∧ (unpack64 (f64Div ⟨false, 2 ^ 52, -45⟩ ⟨false, 2 ^ 52, -52⟩)).gtInt 127 = true
    ∧ (unpack64 (f64Div ⟨false, 2 ^ 52, -46⟩ ⟨false, 2 ^ 52, -52⟩)).ltInt (-127) = false
    ∧ (unpack64 (f64Div ⟨false, 2 ^ 52, -46⟩ ⟨false, 2 ^ 52, -52⟩)).gtInt 127 = false
    ∧ isNaN64 0x7FF8000000000000#64 = true ∧ isInf64 0xFFF0000000000000#64 = true := by
  decide +kernel

/-- For Obligations.QuantizeFloat: a NaN under both forms of NAN_NARROW, both infinities, a finite value below R104's
threshold and the tie at it (F8), which overflows. -/
theorem test_witness_quantizeFloat :
    isNaN64 0xFFF8000000000001#64 = true ∧ unpack64 0x7FF0000000000000#64 = .inf false
    ∧ unpack64 0xFFF0000000000000#64 = .inf true ∧ unpack64 0x8000000000000000#64 = .finite ⟨true, 0, -1074⟩
    ∧ State.reset.cfg.nanNarrow = .keepPayload
    ∧ ({ Config.defaults with nanNarrow := .implementation } : Config.Params).nanNarrow ≠ .keepPayload
    ∧ unpack64 0x47EFFFFFF0000000#64 = .finite ⟨false, 2 ^ 53 - 2 ^ 28, 75⟩ ∧ (2 ^ 53 - 2 ^ 28) * 2 ^ 75 = 2 ^ 128 - 2 ^ 103 := by
  decide +kernel

/-- For Obligations.DequantizeCommand: the sentinel and its neighbour; at Float R105's signalling NaN, an infinity and the
least subnormal. -/
theorem test_witness_dequantize :
    ((0x80#64).setWidth (8 * intSize .int8)).toInt = -intMax .int8 - 1
    ∧ ((0x81#64).setWidth (8 * intSize .int8)).toInt ≠ -intMax .int8 - 1
    ∧ unpack64 (Config.defaults.scale.entry .temperature .int8).bits = .finite ⟨false, 2 ^ 52, -52⟩
    ∧ isNaN32 0x7F800001#32 = true ∧ unpack32 0xFF800000#32 = .inf true ∧ unpack32 0x00000001#32 = .finite ⟨false, 1, -149⟩ := by
  decide

/-- For SentinelOnlyForNonFinite and SentinelRoundTrip: a NaN in DIN is not finite and Q_QUANT answers; the largest finite
value is finite. -/
theorem test_witness_sentinel :
    isFinite64 0x7FF8000000000000#64 = false ∧ isFinite64 0x7FEFFFFFFFFFFFFF#64 = true
    ∧ field State.dout (exec (.qQuant .int16 .time) { State.reset with din := 0x7FF8000000000000#64 }) = some 0x8000#64 := by
  decide +kernel

/-- For Obligations.DequantizeIgnoresUpperBits (U6). -/
theorem test_witness_upper_bits : (0xFFFFFFFFFFFFFF0A#64).setWidth (8 * 1) = (0x0A#64).setWidth (8 * 1) := by decide

/-- For FloatRoundTripExact: the largest subnormal; for NearestEvenIsNearest: the tie 5/2 goes to the even 2. -/
theorem test_witness_rounding : isNaN32 0x007FFFFF#32 = false ∧ 0 < 2 ∧ nearestEven 5 2 = 2 ∧ nearestEven 7 2 = 4 := by decide

/-- For Obligations.DivisionIsCorrectlyRounded: quotients just below the overflow threshold, at it (infinity), and a tie
of the two least magnitudes, which goes to the even −0 (R11). -/
theorem test_witness_division :
    (⟨false, 1, 0⟩ : Finite).mant ≠ 0 ∧ f64Div ⟨false, 2 ^ 55 - 3, 969⟩ ⟨false, 1, 0⟩ = 0x7FEFFFFFFFFFFFFF#64
    ∧ f64Div ⟨false, 2 ^ 54 - 1, 970⟩ ⟨false, 1, 0⟩ = 0x7FF0000000000000#64
    ∧ f64Div ⟨true, 1, -1074⟩ ⟨false, 2, 0⟩ = 0x8000000000000000#64 := by
  decide +kernel

/-- For Obligations.CmbInitStarts: no combiner, a finished one, an unfinished one. -/
theorem test_witness_init :
    State.reset.cact = false ∧ (combiner 0#16 []).cact = true ∧ (combiner 0#16 []).ci = (combiner 0#16 []).cn
    ∧ (combiner 0#16 [.int8]).ci ≠ (combiner 0#16 [.int8]).cn ∧ 0x20#8 ∈ [0x00#8, 0x10#8, 0x20#8] := by
  decide

/-- For Obligations.CmbDeclAppends: the last declaration that fits. -/
theorem test_witness_decl :
    let s : State := { combiner 0#16 [] with cn := 254#8 }
    s.fault = false ∧ s.cact = true ∧ s.ci = 0#8 ∧ s.cn.toNat < 255 := by
  decide

/-- For Obligations.CmbStepWithoutHeader: a leading gap, a gap after a run, and a continued run. -/
theorem test_witness_step_quiet :
    ((combiner 0#16 [.ignore]).declared 0 = (combiner 0#16 [.ignore]).ccur)
    ∧ ({ combiner 0#16 [.int8, .ignore] with ci := 1#8, ccur := .int8 } : State).declared 1 = .ignore
    ∧ ({ combiner 0#16 [.int8, .int8] with ci := 1#8, ccur := .int8 } : State).declared 1 = .int8
    ∧ ({ combiner 0#16 [.int8, .int8] with ci := 1#8, ccur := .int8 } : State).ci.toNat
      < ({ combiner 0#16 [.int8, .int8] with ci := 1#8, ccur := .int8 } : State).cn.toNat
    ∧ (combiner 0#16 [.int8]).fault = false ∧ (combiner 0#16 [.int8]).parserLive = false := by
  decide +kernel

/-- For Obligations.CmbStepEmitsHeader: shorthand filling the frame at register 127 (K13's room), and the long form. -/
theorem test_witness_header :
    let s : State := { combiner 127#16 [.int8] with flen := 62#7 }
    let l : State := { combiner 0#16 [.int8, .int8, .int8, .int8] with flen := 61#7 }
    (s.runLength 0 = 1 ∧ s.flen.toNat + 2 ≤ 64 ∧ s.cstart.toNat + s.ci.toNat ≤ 127)
    ∧ (l.runLength 0 = 4 ∧ l.flen.toNat + 3 ≤ 64)
    ∧ s.fault = false ∧ s.parserLive = false ∧ s.cact = true ∧ s.ci.toNat < s.cn.toNat ∧ s.fb.wf = true
    ∧ s.declared 0 ≠ s.ccur ∧ s.declared 0 ≠ .ignore := by
  decide +kernel

/-- For Obligations.HeaderChecksInOrder: its three clauses (K16, K15, K14). -/
theorem test_witness_header_errors :
    let a : State := { combiner 200#16 [.int8] with flen := 64#7 }
    let b : State := { combiner 128#16 [.int8] with flen := 63#7 }
    let c : State := { combiner 127#16 [.int8] with flen := 63#7 }
    a.runLength 0 = 1 ∧ 64 < a.flen.toNat + 1
    ∧ (b.flen.toNat + 1 ≤ 64 ∧ 127 < b.cstart.toNat + b.ci.toNat)
    ∧ (c.flen.toNat + 1 ≤ 64 ∧ c.cstart.toNat + c.ci.toNat ≤ 127 ∧ 64 < c.flen.toNat + 1 + 1)
    ∧ c.fault = false ∧ c.parserLive = false ∧ c.cact = true ∧ c.ci.toNat < c.cn.toNat
    ∧ c.declared 0 ≠ c.ccur ∧ c.declared 0 ≠ .ignore := by
  decide +kernel

/-- For CmbEndEnds and CombinerMisuseRaises: a finished, an unfinished, an absent and a full combiner. -/
theorem test_witness_end :
    (combiner 0#16 []).cact = true ∧ (combiner 0#16 []).ci = (combiner 0#16 []).cn
    ∧ (combiner 0#16 [.int8]).ci ≠ (combiner 0#16 [.int8]).cn ∧ State.reset.cact = false
    ∧ ({ combiner 0#16 [] with cn := 255#8 } : State).cn = 255#8
    ∧ ({ combiner 0#16 [.int8] with ci := 1#8 } : State).ci ≠ 0#8
    ∧ (combiner 0#16 []).fault = false ∧ (combiner 0#16 []).parserLive = false := by
  decide

/-- For Obligations.RunLengthIsMaximal: a run at CN's end and one ended by a change. -/
theorem test_witness_runLength :
    0 < (combiner 0#16 [.int8, .int8, .float]).cn.toNat ∧ (combiner 0#16 [.int8, .int8, .float]).runLength 0 = 2
    ∧ (combiner 0#16 [.int8, .int8, .float]).runLength 2 = 1 := by
  decide +kernel

/-- For Obligations.HeaderOpcodeIsWireOpcode: R144's examples 0x0C (Float, count 5) and 0x29 (Int32, count 1). -/
theorem test_witness_header_opcode :
    Resolution.float ≠ .ignore ∧ 1 ≤ 5 ∧ headerOpcode 0x00#8 .float 5 = 0x0C#8 ∧ headerOpcode 0x20#8 .int32 1 = 0x29#8 := by
  decide

/-- For Obligations.CombinerHeaderTotal: P2's declarations (three headers, 7 bytes), in a frame that they just fill;
and two registers of one run at 127 and 128 (K19's case). -/
theorem test_witness_header_total :
    let s : State := { combiner 5#16 [.int16, .int16, .ignore, .float, .float, .float, .float, .int32] with flen := 57#7 }
    let u : State := combiner 127#16 [.int8, .int8]
    headerTotal s.declarations = 7 ∧ s.flen.toNat + headerTotal s.declarations ≤ 64
    ∧ (∀ k, k < s.cn.toNat → s.declared k ≠ .ignore → k = 0 ∨ s.declared (k - 1) ≠ s.declared k → s.cstart.toNat + k ≤ 127)
    ∧ (∀ k, k < u.cn.toNat → u.declared k ≠ .ignore → k = 0 ∨ u.declared (k - 1) ≠ u.declared k → u.cstart.toNat + k ≤ 127)
    ∧ s.fault = false ∧ s.parserLive = false ∧ s.cact = true ∧ s.ci = 0#8 ∧ s.ccur = .ignore := by
  decide +kernel

/-- For Obligations.PrsNextOutsideSequence: idle, exhausted, error. -/
theorem test_witness_prs_outside :
    State.reset.pstate = .idle ∧ ({ State.reset with pstate := .exhausted } : State).pstate = .exhausted
    ∧ ({ State.reset with pstate := .error } : State).pstate = .error ∧ State.reset.fault = false := by
  decide

/-- For Obligations.PrsNextInRun: the payload just fits, and is one byte short. -/
theorem test_witness_in_run :
    let s : State := { parsing [0x25#8, 0x03#8, 0x34#8, 0x12#8] with rcur := 2#7, pstate := .inRun, prem := 1#8, pres := 1#2, pnext := 3#16 }
    s.fault = false ∧ s.pstate = .inRun ∧ s.flen.toNat ≤ 64 ∧ s.prem ≠ 0#8 ∧ s.pnext.toNat < 65535
    ∧ (s.pres, 2) ∈ [(0#2, 1), (1#2, 2), (2#2, 4), (3#2, 4)] ∧ s.rcur.toNat + 2 ≤ s.flen.toNat
    ∧ ({ s with flen := 3#7 } : State).flen.toNat < ({ s with flen := 3#7 } : State).rcur.toNat + 2 := by
  decide

/-- For Obligations.PrsNextRunsWireOpcode: a byte left, and none. -/
theorem test_witness_scanning :
    (parsing [0x50#8]).fault = false ∧ (parsing [0x50#8]).pstate = .scanning ∧ (parsing [0x50#8]).flen.toNat ≤ 64
    ∧ (parsing [0x50#8]).rcur.toNat < (parsing [0x50#8]).flen.toNat
    ∧ (parsing []).flen.toNat ≤ (parsing []).rcur.toNat := by
  decide

/-- For Obligations.ReplyOpensRun: an inline count with the start register as the frame's last byte, an explicit count, and
the start registers 0x7F and 0x80. -/
theorem test_witness_reply :
    let a := parsing [0x21#8, 0x7F#8]
    let b := parsing [0x20#8, 0x04#8, 0x80#8]
    (1#2 ≠ 0#2 ∧ a.rcur.toNat + 2 ≤ a.flen.toNat ∧ (a.readByte (a.rcur.toNat + 2 - 1)).toNat < 0x80 ∧ a.flen.toNat ≤ 64)
    ∧ (b.readByte (b.rcur.toNat + 1) ≠ 0#8 ∧ b.rcur.toNat + 3 ≤ b.flen.toNat
      ∧ 0x80 ≤ (b.readByte (b.rcur.toNat + 3 - 1)).toNat ∧ b.cfg.parseHighReg = .asByte)
    ∧ ({ b with cfg := { Config.defaults with parseHighReg := .stop } } : State).cfg.parseHighReg = .stop := by
  decide

/-- For Obligations.ReplyTruncatedOrEmpty: its three clauses (X5, X7, X22). -/
theorem test_witness_reply_short :
    ((parsing [0x25#8]).rcur.toNat + 1 = (parsing [0x25#8]).flen.toNat)
    ∧ ((parsing [0x24#8, 0x02#8]).rcur.toNat + 2 = (parsing [0x24#8, 0x02#8]).flen.toNat
      ∧ (parsing [0x24#8, 0x02#8]).readByte ((parsing [0x24#8, 0x02#8]).rcur.toNat + 1) ≠ 0#8)
    ∧ ((parsing [0x28#8, 0x00#8]).rcur.toNat + 2 ≤ (parsing [0x28#8, 0x00#8]).flen.toNat
      ∧ (parsing [0x28#8, 0x00#8]).readByte ((parsing [0x28#8, 0x00#8]).rcur.toNat + 1) = 0#8
      ∧ (parsing [0x28#8, 0x00#8]).flen.toNat ≤ 64) := by
  decide

/-- For Obligations.RunYieldsConsecutiveRegisters: three Int8 registers from 126 whose payloads end the frame (X17). -/
theorem test_witness_run :
    let s : State := { parsing [0x23#8, 0x7E#8, 1#8, 2#8, 3#8] with rcur := 2#7, pstate := .inRun, prem := 3#8, pnext := 126#16 }
    s.fault = false ∧ s.pstate = .inRun ∧ s.flen.toNat ≤ 64 ∧ s.prem.toNat = 3 ∧ 0 < 3 ∧ s.pnext.toNat + 3 ≤ 510
    ∧ 1 = wireSize s.pres ∧ s.rcur.toNat + 3 * 1 ≤ s.flen.toNat := by
  decide

/-- For Obligations.FrameContentNeverFaults: a framing error (X9) is a next state. -/
theorem test_witness_frame_content :
    (parsing [0x00#8]).fault = false ∧ (parsing [0x00#8]).pstate ≠ .idle
    ∧ field State.pstate (exec .prsNext (parsing [0x00#8])) = some .error := by
  decide

/-- For Obligations.ParserReadsOnlyTheFrame: buffers that differ only beyond FLEN = 1. -/
theorem test_witness_beyond_frame :
    ∀ a, a < (parsing [0x21#8]).flen.toNat →
      Memory.read [(0, 0x21#8), (1, 0x55#8)] a = (parsing [0x21#8]).readByte a := by
  decide

/-- For HostReadsChangeNothing and HostWritesOutsideCommand: the queues they name; of CMD a legal word (with bits above 31,
which are dropped), an illegal one, and both clauses while faulted. -/
theorem test_witness_host :
    (State.reset.withQueue [.read 6]).port.queue = [.read 6] ∧ (State.reset.withQueue [.write 1 5#64]).port.queue = [.write 1 5#64]
    ∧ (State.reset.withQueue [.write 2 5#64]).port.queue = [.write 2 5#64]
    ∧ (faulted.withQueue [.write 0 1#64]).port.queue = [.write 0 1#64] ∧ (faulted.withQueue [.write 0 1#64]).fault = true
    ∧ (State.reset.withQueue [.write 0 0#64]).fault = false
    ∧ decodes .prsInit (decodeCommand ((0xF00000030#64).setWidth 32))
    ∧ (match decodeCommand ((0#64).setWidth 32) with | .ok _ => false | .error why => decide (why = .reservedOpcode)) = true
    ∧ (1#64).setWidth 32 = 0x00000001#32 ∧ (0x101#64).setWidth 32 ≠ 0x00000001#32 := by
  decide

/-- For Obligations.LoadFrameLoadsBytes: a full frame. -/
theorem test_witness_load :
    State.reset.fault = false ∧ State.reset.fb.wf = true ∧ (List.replicate 64 0x21#8).length ≤ 64 := by
  decide

/-- For DecodeOfEncode (the largest legal LEN), QuantizerRefusesIgnore, ElementFields and FillerAndFramingErrors. -/
theorem test_witness_simple :
    (Instr.fbSetlen 64#7).WellFormed ∧ State.reset.fault = false ∧ 4 ≤ 4 ∧ 3 < 4
    ∧ Instr.unassignedF 0xF#4 ∈ [Instr.muxError 0xF#4, .tunnel 0xF#4, .unassignedF 0xF#4] := by
  decide

end Sys2Proof.Tests
end

section
/-! Every step keeps the invariant (00_scope.md R8, 10_state.md R28, R29, R32, 20_memory.md R51).

The invariant is taken apart into four groups of variables. An outcome keeps the invariant when its next state, if it
is one, meets it; the shared operations have one rule each in these terms, and so has every command. -/

namespace Sys2Proof.Machine

/-! ## The four parts of the invariant -/

/-- The frame's part: canonical bytes, and a length the buffer has. -/
def State.FrameInv (s : State) : Prop := s.fb.wf = true ∧ s.flen.toNat ≤ 64

/-- The parser's part: where the cursor is, and what is left of an open run. -/
def State.ParserInv (s : State) : Prop :=
  s.rcur.toNat ≤ 64
  ∧ (s.parserLive = true → s.rcur.toNat ≤ s.flen.toNat)
  ∧ (s.pstate = .inRun → 1 ≤ s.prem.toNat ∧ s.pnext.toNat + s.prem.toNat ≤ 510)

/-- The combiner's part: its cursor, its current resolution and its base. -/
def State.CombinerInv (s : State) : Prop :=
  s.ci.toNat ≤ s.cn.toNat ∧ s.currentResolutionOk ∧ s.cbase ∈ legalBases

/-- The error's part: FAULT is set exactly when ERR names an error. -/
def State.ErrorInv (s : State) : Prop := s.fault = true ↔ s.err ≠ .none

theorem State.inv_iff (s : State) : s.Inv ↔ s.FrameInv ∧ s.ParserInv ∧ s.CombinerInv ∧ s.ErrorInv := by
  simp only [State.Inv, State.FrameInv, State.ParserInv, State.CombinerInv, State.ErrorInv, and_assoc]

theorem State.Inv.frame {s : State} (h : s.Inv) : s.FrameInv := (s.inv_iff.1 h).1

theorem State.Inv.parser {s : State} (h : s.Inv) : s.ParserInv := (s.inv_iff.1 h).2.1

theorem State.Inv.combiner {s : State} (h : s.Inv) : s.CombinerInv := (s.inv_iff.1 h).2.2.1

theorem State.Inv.error {s : State} (h : s.Inv) : s.ErrorInv := (s.inv_iff.1 h).2.2.2

theorem State.Inv.flen_le {s : State} (h : s.Inv) : s.flen.toNat ≤ 64 := h.frame.2

/-- The invariant from its four parts. -/
theorem State.Inv.mk {s : State} (hf : s.FrameInv) (hp : s.ParserInv) (hc : s.CombinerInv) (he : s.ErrorInv) : s.Inv :=
  s.inv_iff.2 ⟨hf, hp, hc, he⟩

/-- A parser that is not live only needs a cursor in range. -/
theorem State.ParserInv.of_not_live {s : State} (hl : s.parserLive = false) (hr : s.rcur.toNat ≤ 64) : s.ParserInv := by
  refine ⟨hr, fun hlive => ?_, fun hrun => ?_⟩
  · rw [hl] at hlive
    cases hlive
  · rw [s.parserLive_iff.2 (.inr hrun)] at hl
    cases hl

/-! ## The state's operations -/

theorem State.Inv.raised {s : State} {e : ErrorKind} (h : s.Inv) (he : e ≠ .none) : (s.raised e).Inv :=
  .mk h.frame h.parser h.combiner ⟨fun _ => he, fun _ => rfl⟩

theorem State.Inv.resetAll (s : State) : s.resetAll.Inv :=
  .mk ⟨State.reset_fb_wf, Nat.zero_le _⟩ (.of_not_live rfl (Nat.zero_le _)) ⟨le_rfl, rfl, List.mem_cons_self⟩
    ⟨(nomatch ·), fun he => (he rfl).elim⟩

theorem State.Inv.writeByte {s : State} {i : Nat} (h : s.Inv) (b : Byte) (hi : i < 64) : (s.writeByte i b).Inv :=
  .mk ⟨Memory.wf_write b hi h.frame.1, h.flen_le⟩ h.parser h.combiner h.error

/-- An append that fits; the guard of 42_frame_writer.md R120 gives that the parser is not live. -/
theorem State.Inv.append {s : State} {bs : List Byte} (h : s.Inv) (hl : s.parserLive = false)
    (hfit : s.flen.toNat + bs.length ≤ 64) : (s.append bs).Inv := by
  refine .mk ⟨Memory.wf_writeBytes hfit h.frame.1, ?_⟩ (.of_not_live hl h.parser.1) h.combiner h.error
  rw [State.append_flen_toNat hfit]
  exact hfit

/-- A decision for the register at CI, with that register's resolution as the current one. -/
theorem State.Inv.decided {s : State} (h : s.Inv) (w : Bool) (hlt : s.ci.toNat < s.cn.toNat) :
    (s.decided (s.declared s.ci.toNat) w).Inv := by
  have hci : (s.ci + 1#8).toNat = s.ci.toNat + 1 := by
    have := s.cn.isLt
    simp only [BitVec.toNat_add, BitVec.toNat_ofNat]
    omega
  have hne : s.ci + 1#8 ≠ 0#8 := fun h0 => by
    rw [h0] at hci
    simp at hci
  refine .mk h.frame h.parser ⟨?_, ?_, h.combiner.2.2⟩ h.error
  · rw [State.decided_ci, State.decided_cn, hci]
    omega
  · simp only [State.currentResolutionOk, State.decided_ci, State.decided_ccur, State.decided_declared, hne, if_false,
      hci, Nat.add_sub_cancel]

theorem State.Inv.consume {s : State} {n : Nat} (h : s.Inv) (hn : s.rcur.toNat + n ≤ s.flen.toNat) :
    (s.consume n).Inv := by
  have hr : (s.consume n).rcur.toNat = s.rcur.toNat + n := State.consume_rcur_toNat (by have := h.flen_le; omega)
  obtain ⟨_, _, hrun⟩ := h.parser
  refine .mk h.frame ⟨?_, fun _ => ?_, hrun⟩ h.combiner h.error
  · rw [hr]
    exact hn.trans h.flen_le
  · rw [hr]
    exact hn

theorem State.Inv.endSequence {s : State} {p : ParserState} (h : s.Inv) (hp : (s.endSequence p).parserLive = false) :
    (s.endSequence p).Inv :=
  .mk h.frame (.of_not_live hp h.parser.1) h.combiner h.error

theorem State.Inv.setDin {s : State} (h : s.Inv) (d : Word64) : ({ s with din := d } : State).Inv := h

theorem State.Inv.setDout {s : State} (h : s.Inv) (d : Word64) : ({ s with dout := d } : State).Inv := h

/-! ## Outcomes that keep the invariant -/

/-- The outcome's next state, if it has one, meets the invariant. -/
def KeepsInv (o : Result State) : Prop := ∀ t, o = .next t → t.Inv

theorem keepsInv_next {t : State} (h : t.Inv) : KeepsInv (.next t) := by
  rintro _ ⟨⟩
  exact h

theorem keepsInv_fault (r : Fault) : KeepsInv (.fault r) := fun _ h => nomatch h

theorem raise_keepsInv {e : ErrorKind} {s : State} (h : s.Inv) (he : e ≠ .none) : KeepsInv (raise e s) := by
  rcases raise_cases (e := e) (s := s) rfl with ⟨_, ho⟩ | ⟨_, ho⟩ <;> rw [ho]
  · exact keepsInv_next h
  · exact keepsInv_next (h.raised he)

theorem unlessFaulted_keepsInv {s : State} {k : Result State} (h : s.Inv) (hk : KeepsInv k) :
    KeepsInv (unlessFaulted s k) := by
  rcases unlessFaulted_cases (s := s) (k := k) rfl with ⟨_, ho⟩ | ⟨_, ho⟩
  · rw [ho]
    exact keepsInv_next h
  · rw [← ho]
    exact hk

theorem guardMutation_keepsInv {s : State} {k : Result State} (h : s.Inv) (hk : s.parserLive = false → KeepsInv k) :
    KeepsInv (guardMutation s k) := by
  rcases guardMutation_cases (s := s) (k := k) rfl with ⟨_, ho⟩ | ⟨hl, ho⟩ <;> rw [← ho]
  · exact raise_keepsInv h (by decide)
  · exact hk hl

theorem checkCapacity_keepsInv {n : Nat} {s : State} {k : Result State} (h : s.Inv)
    (hk : s.flen.toNat + n ≤ 64 → KeepsInv k) : KeepsInv (checkCapacity n s k) := by
  rcases checkCapacity_cases (n := n) (s := s) (k := k) rfl with ⟨_, ho⟩ | ⟨hfit, ho⟩ <;> rw [← ho]
  · exact raise_keepsInv h (by decide)
  · exact hk hfit

theorem withinFrame_keepsInv {s : State} {k : Result State} (hk : KeepsInv k) : KeepsInv (withinFrame s k) := by
  rcases withinFrame_cases (s := s) (k := k) rfl with ⟨_, ho⟩ | ⟨_, ho⟩
  · rw [ho]
    exact keepsInv_fault _
  · rw [← ho]
    exact hk

/-! ## The byte port and the frame writer -/

theorem execFbClear_keepsInv {s : State} (h : s.Inv) : KeepsInv (execFbClear s) :=
  unlessFaulted_keepsInv h <| keepsInv_next <|
    .mk ⟨h.frame.1, Nat.zero_le _⟩ (.of_not_live rfl (Nat.zero_le _)) h.combiner h.error

theorem execFbPut_keepsInv {s : State} (idx : BitVec 6) (byte : Byte) (h : s.Inv) : KeepsInv (execFbPut idx byte s) :=
  unlessFaulted_keepsInv h <| guardMutation_keepsInv h fun _ => keepsInv_next (h.writeByte byte idx.isLt)

theorem execFbGet_keepsInv {s : State} (idx : BitVec 6) (h : s.Inv) : KeepsInv (execFbGet idx s) :=
  unlessFaulted_keepsInv h <| keepsInv_next (h.setDout _)

theorem execFbSetlen_keepsInv {s : State} (len : BitVec 7) (h : s.Inv) : KeepsInv (execFbSetlen len s) := by
  refine unlessFaulted_keepsInv h ?_
  split
  · exact raise_keepsInv h (by decide)
  · next hlen =>
    exact guardMutation_keepsInv h fun hl => keepsInv_next <|
      .mk ⟨h.frame.1, Nat.not_lt.1 hlen⟩ (.of_not_live hl h.parser.1) h.combiner h.error

theorem execFbAppendRaw_keepsInv {s : State} (res : Resolution) (h : s.Inv) : KeepsInv (execFbAppendRaw res s) := by
  refine unlessFaulted_keepsInv h <| guardMutation_keepsInv h fun hl => ?_
  split
  · exact raise_keepsInv h (by decide)
  · exact checkCapacity_keepsInv h fun hfit => keepsInv_next (h.append hl (by rwa [length_bytesLE]))

theorem execFbAppendQ_keepsInv {s : State} (res : Resolution) (qty : Quantity) (h : s.Inv) :
    KeepsInv (execFbAppendQ res qty s) := by
  refine unlessFaulted_keepsInv h <| guardMutation_keepsInv h fun hl => ?_
  split
  · exact raise_keepsInv h (by decide)
  · exact checkCapacity_keepsInv h fun hfit => keepsInv_next (h.append hl (by rwa [length_bytesLE]))

/-! ## The quantizer -/

theorem execQQuant_keepsInv {s : State} (res : Resolution) (qty : Quantity) (h : s.Inv) :
    KeepsInv (execQQuant res qty s) := by
  refine unlessFaulted_keepsInv h ?_
  split
  · exact raise_keepsInv h (by decide)
  · exact keepsInv_next (h.setDout _)

theorem execQDequant_keepsInv {s : State} (res : Resolution) (qty : Quantity) (h : s.Inv) :
    KeepsInv (execQDequant res qty s) := by
  refine unlessFaulted_keepsInv h ?_
  split
  · exact raise_keepsInv h (by decide)
  · exact keepsInv_next (h.setDout _)
  · exact keepsInv_next (h.setDout _)

/-! ## The combiner -/

theorem execCmbInit_keepsInv {s : State} (base : Byte) (h : s.Inv) : KeepsInv (execCmbInit base s) := by
  refine unlessFaulted_keepsInv h ?_
  split
  · exact raise_keepsInv h (by decide)
  · next hbase =>
    split
    · exact raise_keepsInv h (by decide)
    · exact keepsInv_next <| .mk h.frame h.parser ⟨le_rfl, rfl, by simpa using hbase⟩ h.error

/-- While CI is 0 no declaration has been read yet, so a new one leaves the current resolution Ignore. -/
theorem execCmbDecl_keepsInv {s : State} (res : Resolution) (h : s.Inv) : KeepsInv (execCmbDecl res s) := by
  refine unlessFaulted_keepsInv h ?_
  split
  · exact raise_keepsInv h (by decide)
  split
  · exact raise_keepsInv h (by decide)
  next hci =>
  split
  · exact raise_keepsInv h (by decide)
  have hci0 : s.ci = 0#8 := not_not.1 hci
  obtain ⟨_, hcur, hbase⟩ := h.combiner
  refine keepsInv_next <| .mk h.frame h.parser ⟨?_, ?_, hbase⟩ h.error
  · simp [hci0]
  · simpa [State.currentResolutionOk, hci0] using hcur

theorem decideRegister_keepsInv {s : State} (h : s.Inv) (hl : s.parserLive = false) (hlt : s.ci.toNat < s.cn.toNat) :
    KeepsInv (decideRegister s) := by
  rcases decideRegister_cases (s := s) rfl with ⟨hd, ho⟩ | ⟨_, hd, ho⟩ | ⟨_, _, e, he, ho⟩ | ⟨_, _, hnone, ho⟩ <;> rw [ho]
  · rw [← hd]
    exact keepsInv_next (h.decided _ hlt)
  · rw [← hd]
    exact keepsInv_next (h.decided _ hlt)
  · refine raise_keepsInv h ?_
    rintro rfl
    rcases headerError?_cases s (s.runLength s.ci.toNat) (s.cstart.toNat + s.ci.toNat) with hc | ⟨hc, _⟩ | ⟨hc, _⟩ <;>
      cases hc.symm.trans he
  · rcases headerError?_cases s (s.runLength s.ci.toNat) (s.cstart.toNat + s.ci.toNat) with hc | ⟨hc, _⟩ | ⟨_, _, hfit⟩
    · cases hc.symm.trans hnone
    · cases hc.symm.trans hnone
    · exact keepsInv_next ((h.append hl (by rwa [length_headerBytes])).decided true hlt)

theorem execCmbStep_keepsInv {s : State} (h : s.Inv) : KeepsInv (execCmbStep s) := by
  refine unlessFaulted_keepsInv h <| guardMutation_keepsInv h fun hl => ?_
  split
  · exact raise_keepsInv h (by decide)
  split
  · exact raise_keepsInv h (by decide)
  next hne =>
  split
  · exact keepsInv_fault _
  exact decideRegister_keepsInv h hl (lt_of_le_of_ne h.combiner.1 fun heq => hne (BitVec.eq_of_toNat_eq heq))

theorem execCmbEnd_keepsInv {s : State} (h : s.Inv) : KeepsInv (execCmbEnd s) := by
  refine unlessFaulted_keepsInv h ?_
  split
  · exact raise_keepsInv h (by decide)
  split
  · exact raise_keepsInv h (by decide)
  · exact keepsInv_next h

/-! ## The parser -/

theorem execPrsInit_keepsInv {s : State} (h : s.Inv) : KeepsInv (execPrsInit s) :=
  unlessFaulted_keepsInv h <| keepsInv_next <|
    .mk h.frame ⟨Nat.zero_le _, fun _ => Nat.zero_le _, fun hrun => nomatch hrun⟩ h.combiner h.error

/-- An opened run has at least one element and at most 255 of them, and its first id is a byte (44_parser.md R162). -/
theorem State.Inv.openRun {s : State} {count : Byte} (h : s.Inv) (rc : BitVec 2) (hcount : count ≠ 0#8) :
    (openRun rc count s).Inv := by
  rcases openRun_cases rc count s with ⟨_, ho⟩ | ⟨hlt, _, _, ho⟩ | ⟨hlt, _, ho⟩ <;> rw [ho]
  · exact h.endSequence rfl
  · exact (h.consume (n := 1) hlt).endSequence rfl
  · have hc := h.consume (n := 1) hlt
    have hcur : (s.consume 1).rcur.toNat ≤ s.flen.toNat := by
      rw [State.consume_rcur_toNat (by have := h.flen_le; omega)]
      exact hlt
    have hrun : 1 ≤ count.toNat ∧ (s.cursorByte.setWidth 16).toNat + count.toNat ≤ 510 := by
      have hpos : count.toNat ≠ 0 := fun h0 => hcount (BitVec.eq_of_toNat_eq h0)
      have hreg := s.cursorByte.isLt
      have hle := count.isLt
      rw [BitVec.toNat_setWidth]
      omega
    exact .mk h.frame ⟨hc.parser.1, fun _ => hcur, fun _ => hrun⟩ h.combiner h.error

theorem State.Inv.openLongRun {s : State} (h : s.Inv) (rc : BitVec 2) : (openLongRun rc s).Inv := by
  rcases openLongRun_cases rc s with ⟨_, ho⟩ | ⟨hlt, _, ho⟩ | ⟨hlt, hcount, ho⟩ <;> rw [ho]
  · exact h.endSequence rfl
  · exact h.consume (n := 1) hlt
  · exact (h.consume (n := 1) hlt).openRun rc hcount

theorem execMuxReply_keepsInv {s : State} (rc c : BitVec 2) (h : s.Inv) (hlt : s.rcur.toNat < s.flen.toNat) :
    KeepsInv (execMuxReply rc c s) := by
  have h1 := h.consume (n := 1) hlt
  refine withinFrame_keepsInv <| keepsInv_next ?_
  split
  · exact h1.openLongRun rc
  · next hc =>
    refine h1.openRun rc fun h0 => hc ?_
    revert c
    decide

/-- A wire opcode fetched inside the frame (44_parser.md R162). -/
theorem runWire_keepsInv {s : State} (b : Byte) (h : s.Inv) (hlt : s.rcur.toNat < s.flen.toNat) :
    KeepsInv (runWire b s) := by
  have h1 := h.consume (n := 1) hlt
  rcases runWire_cases b s with ⟨_, ho⟩ | ⟨_, ho⟩ | ⟨_, _, ho⟩ <;> rw [ho]
  · exact keepsInv_next h1
  · exact execMuxReply_keepsInv _ _ h hlt
  · exact keepsInv_next (h1.endSequence rfl)

/-- An element takes one register id and one of the elements left, so their sum is kept (44_parser.md R162). -/
theorem yieldElement_keepsInv {s : State} (h : s.Inv) (hrun : s.pstate = .inRun) : KeepsInv (yieldElement s) := by
  obtain ⟨hprem, hsum⟩ := h.parser.2.2 hrun
  rcases yieldElement_cases (s := s) rfl with ⟨_, ho⟩ | ⟨_, _, ho⟩ | ⟨_, _, _, ho⟩ | ⟨_, hfit, _, ho⟩ <;> rw [ho]
  · exact keepsInv_fault _
  · exact keepsInv_next (h.endSequence rfl)
  · exact keepsInv_fault _
  · have hc := h.consume hfit
    have hcur : (s.consume (wireSize s.pres)).rcur.toNat ≤ s.flen.toNat := by
      rw [State.consume_rcur_toNat (hfit.trans h.flen_le)]
      exact hfit
    refine keepsInv_next <| .mk h.frame ⟨hc.parser.1, fun _ => hcur, fun hin => ?_⟩ h.combiner h.error
    have hone : s.prem ≠ 1#8 := fun h1 => by simp [h1] at hin
    have hone' : s.prem.toNat ≠ 1 := fun h1 => hone (BitVec.eq_of_toNat_eq h1)
    have hlt := s.prem.isLt
    simp only [BitVec.toNat_add, BitVec.toNat_sub, BitVec.toNat_ofNat]
    omega

/-- The scan keeps the invariant turn by turn, and its last turn yields. -/
theorem scan_keepsInv : ∀ (n : Nat) {s : State}, s.Inv → KeepsInv (scan n s)
  | 0, _, h => keepsInv_next (h.endSequence rfl)
  | n + 1, s, h => by
    unfold scan
    split
    · exact keepsInv_next (h.endSequence rfl)
    next hend =>
    have hlt := s.atEnd_eq_false_iff.1 (Bool.eq_false_iff.2 hend)
    split
    · next t ht =>
      have hinv : t.Inv := runWire_keepsInv _ h hlt t ht
      split
      · exact scan_keepsInv n hinv
      · next hrun => exact yieldElement_keepsInv hinv hrun
      all_goals exact keepsInv_next hinv
    · exact keepsInv_fault _
    · exact fun _ hnext => nomatch hnext

theorem execPrsNext_keepsInv {s : State} (h : s.Inv) : KeepsInv (execPrsNext s) := by
  refine unlessFaulted_keepsInv h ?_
  split
  · exact raise_keepsInv h (by decide)
  · exact keepsInv_next (h.setDout _)
  · exact keepsInv_next (h.setDout _)
  · exact withinFrame_keepsInv (scan_keepsInv _ h)
  · next hrun => exact withinFrame_keepsInv (yieldElement_keepsInv h hrun)

/-! ## The step -/

/-- Every command keeps the invariant; a command word decodes to no wire opcode (30_encoding.md R74). -/
theorem exec_decoded_keepsInv {w : Word32} {i : Instr} {s : State} (hw : decodeCommand w = .ok i) (h : s.Inv) :
    KeepsInv (exec i s) := by
  obtain ⟨op, _, _, hi⟩ := decodeCommand_eq_ok hw
  cases op with
  | reset =>
    cases hi
    exact keepsInv_next (.resetAll s)
  | fbClear =>
    cases hi
    exact execFbClear_keepsInv h
  | fbPut =>
    cases hi
    exact execFbPut_keepsInv _ _ h
  | fbGet =>
    cases hi
    exact execFbGet_keepsInv _ h
  | fbSetlen =>
    obtain ⟨_, rfl⟩ := ifLegal_eq_ok hi
    exact execFbSetlen_keepsInv _ h
  | fbAppendRaw =>
    obtain ⟨r, _, rfl⟩ := withRes_eq_ok hi
    exact execFbAppendRaw_keepsInv r h
  | fbAppendQ =>
    obtain ⟨r, _, rfl⟩ := withRes_eq_ok hi
    exact execFbAppendQ_keepsInv r _ h
  | qQuant =>
    obtain ⟨r, _, rfl⟩ := withRes_eq_ok hi
    exact execQQuant_keepsInv r _ h
  | qDequant =>
    obtain ⟨r, _, rfl⟩ := withRes_eq_ok hi
    exact execQDequant_keepsInv r _ h
  | cmbInit =>
    obtain ⟨_, rfl⟩ := ifLegal_eq_ok hi
    exact execCmbInit_keepsInv _ h
  | cmbDecl =>
    obtain ⟨r, _, rfl⟩ := withRes_eq_ok hi
    exact execCmbDecl_keepsInv r h
  | cmbStep =>
    cases hi
    exact execCmbStep_keepsInv h
  | cmbEnd =>
    cases hi
    exact execCmbEnd_keepsInv h
  | prsInit =>
    cases hi
    exact execPrsInit_keepsInv h
  | prsNext =>
    cases hi
    exact execPrsNext_keepsInv h

theorem runCommand_keepsInv {s : State} (w : Word32) (h : s.Inv) : KeepsInv (runCommand w s) := by
  rcases runCommand_cases (w := w) (s := s) rfl with ⟨_, _, ho⟩ | ⟨_, _, ho⟩ | ⟨_, i, hi, ho⟩ | ⟨_, _, _, ho⟩ <;> rw [ho]
  · exact keepsInv_next (.resetAll s)
  · exact keepsInv_next h
  · exact exec_decoded_keepsInv hi h
  · exact keepsInv_next (h.raised (by decide))

theorem hostWrite_keepsInv {s : State} (k : Nat) (v : Word64) (h : s.Inv) : KeepsInv (hostWrite k v s) := by
  rcases hostWrite_cases (k := k) (v := v) (s := s) rfl with ⟨_, ho⟩ | ⟨_, ho⟩ | ⟨_, ho⟩
  · rw [← ho]
    exact runCommand_keepsInv _ h
  · rw [ho]
    exact keepsInv_next (h.setDin _)
  · rw [ho]
    exact keepsInv_next h

theorem serve_keepsInv {s : State} (h : s.Inv) : ∀ t : Transaction, KeepsInv (serve t s)
  | .issue cmd din => runCommand_keepsInv cmd (h.setDin din)
  | .write k v => hostWrite_keepsInv k v h
  | .read _ => keepsInv_next h
  | .hardwareReset => keepsInv_next (.resetAll s)

/-- Settles O14: a step waits or serves one access, and serving keeps the invariant. -/
theorem stepKeepsInvariant : Obligations.StepKeepsInvariant := by
  intro s t h hstep
  rcases step_cases hstep with ⟨_, ho⟩ | ⟨a, rest, _, ho⟩
  · exact keepsInv_next h t ho.symm
  · have hq : (s.withQueue rest).Inv := h
    exact serve_keepsInv hq a t ho

end Sys2Proof.Machine
end

section
/-! Rounding to nearest, ties to even (00_scope.md R11): of one place, of a magnitude to a format, and of the binary64
quotient (41_quantizer.md R102).

A positive fraction is measured in units of the last place it is rounded to. In these units the rounded magnitude is
the nearest natural number, and a value of the format is an integer or lies below the whole binade of the fraction. -/

namespace Sys2Proof.Machine

/-! ## One place -/

/-- `nearestEven` is the quotient or one more, by which half the remainder lies in; at the half it is even. -/
theorem nearestEven_cases (num den : Nat) :
    (2 * (num % den) ≤ den ∧ nearestEven num den = num / den
      ∨ den ≤ 2 * (num % den) ∧ nearestEven num den = num / den + 1)
    ∧ (2 * (num % den) = den → nearestEven num den % 2 = 0) := by
  unfold nearestEven
  simp only
  split
  · omega
  split
  · omega
  · rcases Nat.mod_two_eq_zero_or_one (num / den) with hq | hq <;> rw [hq] <;> omega

/-- Settles O33: the distance is the remainder, or what the remainder lacks to a whole. -/
theorem nearestEvenIsNearest : Obligations.NearestEvenIsNearest := by
  intro num den hden
  obtain ⟨hcases, htie⟩ := nearestEven_cases num den
  have hlt := Nat.mod_lt num hden
  have hlt' : ((num % den : Nat) : Int) < den := Nat.cast_lt.2 hlt
  have hsplit : (num : Int) = (num / den : Nat) * den + (num % den : Nat) := by
    exact_mod_cast (Nat.div_add_mod' num den).symm
  rcases hcases with ⟨_, hm⟩ | ⟨_, hm⟩
  · have habs : |(num : Int) - nearestEven num den * den| = (num % den : Nat) := by
      rw [hm, hsplit, add_sub_cancel_left, Nat.abs_cast]
    rw [habs]
    omega
  · have habs : |(num : Int) - nearestEven num den * den| = den - (num % den : Nat) := by
      rw [hm, hsplit, abs_sub_comm, Nat.cast_add_one, add_one_mul, add_sub_add_left_eq_sub,
        abs_of_pos (sub_pos.2 hlt')]
    rw [habs]
    omega

theorem abs_div_sub_nearestEven {num den : Nat} (hd : 0 < den) :
    |(num / den : ℚ) - nearestEven num den| ≤ 1 / 2
    ∧ (|(num / den : ℚ) - nearestEven num den| = 1 / 2 → nearestEven num den % 2 = 0) := by
  obtain ⟨hle, htie⟩ := nearestEvenIsNearest num den hd
  have hd' : (0 : ℚ) < den := by exact_mod_cast hd
  have habs : |(num / den : ℚ) - nearestEven num den| * den = (|(num : Int) - nearestEven num den * den| : Int) := by
    push_cast
    rw [← abs_of_pos hd', ← abs_mul, abs_of_pos hd', sub_mul, div_mul_cancel₀ _ hd'.ne']
  generalize |(num : Int) - nearestEven num den * den| = dist at hle htie habs
  refine ⟨?_, fun heq => htie ?_⟩
  · have hle' : (2 * dist : ℚ) ≤ den := by exact_mod_cast hle
    rw [← mul_le_mul_iff_left₀ hd', habs]
    linarith
  · rw [heq] at habs
    have heq' : (2 * dist : ℚ) = den := by linarith
    exact_mod_cast heq'

/-- An integer within a half is nearest, and another one is as near only at exactly a half. -/
theorem nearest_of_abs_sub_le_half {u : ℚ} {m : ℤ} (h : |u - m| ≤ 1 / 2) (k : ℤ) :
    |u - m| ≤ |u - k| ∧ (|u - m| = |u - k| → k ≠ m → |u - m| = 1 / 2) := by
  by_cases hk : k = m
  · exact ⟨by rw [hk], fun _ hne => (hne hk).elim⟩
  · have hone : (1 : ℚ) ≤ |(m : ℚ) - k| := by
      exact_mod_cast Int.one_le_abs (sub_ne_zero.2 (Ne.symm hk))
    have htri : |(m : ℚ) - k| ≤ |u - m| + |u - k| := by
      rw [abs_sub_comm u m]
      exact abs_sub_le _ _ _
    exact ⟨by linarith, fun heq _ => by linarith⟩

/-! ## A fraction in units of its last place -/

/-- The fraction in units of the last place it is rounded to. -/
def FloatFormat.scaled (f : FloatFormat) (num den : Nat) : ℚ := num / den / (2 : ℚ) ^ f.lastPlace num den

/-- The integer the scaled fraction is rounded to. -/
def FloatFormat.significand (f : FloatFormat) (num den : Nat) : Nat :=
  nearestEven (num * powDen (f.lastPlace num den)) (den * powNum (f.lastPlace num den))

/-- How many places the last place is above the subnormals'. -/
def FloatFormat.placeIndex (f : FloatFormat) (num den : Nat) : Nat := (f.lastPlace num den - f.minExp).toNat

theorem FloatFormat.roundMagnitude_eq (f : FloatFormat) {num : Nat} (hn : num ≠ 0) (den : Nat) :
    f.roundMagnitude num den
      = min (f.placeIndex num den * 2 ^ f.fracBits + f.significand num den) (f.expOnes * 2 ^ f.fracBits) := by
  rw [FloatFormat.roundMagnitude, if_neg hn]
  rfl

theorem FloatFormat.minExp_add_placeIndex (f : FloatFormat) (num den : Nat) :
    f.minExp + f.placeIndex num den = f.lastPlace num den := by
  have : f.minExp ≤ f.lastPlace num den := le_max_right _ _
  unfold FloatFormat.placeIndex
  omega

theorem FloatFormat.scaled_mul (f : FloatFormat) (num den : Nat) :
    f.scaled num den * (2 : ℚ) ^ (f.minExp + f.placeIndex num den) = num / den := by
  rw [f.minExp_add_placeIndex]
  exact div_mul_cancel₀ _ (by positivity)

section
variable (f : FloatFormat) {num den : Nat} (hn : num ≠ 0) (hd : den ≠ 0)
include hd

theorem FloatFormat.abs_scaled_sub_significand :
    |f.scaled num den - f.significand num den| ≤ 1 / 2
    ∧ (|f.scaled num den - f.significand num den| = 1 / 2 → f.significand num den % 2 = 0) := by
  have hp := powDen_pos (f.lastPlace num den)
  have hscaled : f.scaled num den
      = (num * powDen (f.lastPlace num den) : Nat) / (den * powNum (f.lastPlace num den) : Nat) := by
    have hp' : (powDen (f.lastPlace num den) : ℚ) ≠ 0 := by exact_mod_cast hp.ne'
    rw [FloatFormat.scaled, Nat.cast_mul, Nat.cast_mul, powNum_eq, ← mul_assoc, mul_div_mul_right _ _ hp', div_div]
  rw [hscaled]
  exact abs_div_sub_nearestEven (Nat.mul_pos (Nat.pos_of_ne_zero hd) (powNum_pos _))

include hn

theorem FloatFormat.scaled_lt : f.scaled num den < 2 ^ (f.fracBits + 1) := by
  have hd' : (0 : ℚ) < den := by exact_mod_cast Nat.pos_of_ne_zero hd
  rw [FloatFormat.scaled, div_lt_iff₀ (by positivity), div_lt_iff₀ hd']
  calc (num : ℚ) < den * (2 : ℚ) ^ (floorLog2 num den + 1) := (floorLog2_spec hn hd).2
    _ ≤ den * (2 : ℚ) ^ ((f.fracBits + 1 : Nat) + f.lastPlace num den) := by
        have : floorLog2 num den - f.fracBits ≤ f.lastPlace num den := le_max_left _ _
        refine mul_le_mul_of_nonneg_left (zpow_le_zpow_right₀ one_le_two ?_) hd'.le
        push_cast
        omega
    _ = 2 ^ (f.fracBits + 1) * (2 : ℚ) ^ f.lastPlace num den * den := by
        rw [zpow_add₀ (by norm_num), zpow_natCast]
        ring

/-- Above the subnormals the leading bit stands at the top of the significand. -/
theorem FloatFormat.le_scaled (hpos : 0 < f.placeIndex num den) : 2 ^ f.fracBits ≤ f.scaled num den := by
  have hd' : (0 : ℚ) < den := by exact_mod_cast Nat.pos_of_ne_zero hd
  have hlast : f.lastPlace num den = floorLog2 num den - f.fracBits := by
    unfold FloatFormat.placeIndex at hpos
    unfold FloatFormat.lastPlace at hpos ⊢
    omega
  rw [FloatFormat.scaled, le_div_iff₀ (by positivity), le_div_iff₀ hd', hlast, ← zpow_natCast,
    ← zpow_add₀ (by norm_num), add_sub_cancel, mul_comm]
  exact (floorLog2_spec hn hd).1

theorem FloatFormat.significand_le : f.significand num den ≤ 2 ^ (f.fracBits + 1) := by
  have hnear := abs_le.1 (f.abs_scaled_sub_significand (num := num) hd).1
  have hlt := f.scaled_lt hn hd
  have : (f.significand num den : ℚ) < (2 ^ (f.fracBits + 1) + 1 : Nat) := by
    push_cast
    linarith
  exact Nat.lt_succ_iff.1 (by exact_mod_cast this)

theorem FloatFormat.le_significand (hpos : 0 < f.placeIndex num den) : 2 ^ f.fracBits ≤ f.significand num den := by
  have hnear := abs_le.1 (f.abs_scaled_sub_significand (num := num) hd).1
  have hle := f.le_scaled hn hd hpos
  have : ((2 ^ f.fracBits : Nat) : ℚ) < (f.significand num den + 1 : Nat) := by
    push_cast
    linarith
  exact Nat.lt_succ_iff.1 (by exact_mod_cast this)

end

/-! ## The values of a format -/

/-- A value with a significand and an exponent that the format has room for. -/
def FloatFormat.Represents (f : FloatFormat) (z : Finite) : Prop := z.mant < 2 ^ (f.fracBits + 1) ∧ f.minExp ≤ z.exp

theorem FloatFormat.unpack_normal (f : FloatFormat) (neg : Bool) {b : Nat} (frac : Nat) (hb : b + 1 ≠ f.expOnes) :
    f.unpack neg (b + 1) frac = .finite ⟨neg, 2 ^ f.fracBits + frac, f.minExp + b⟩ := by
  simp [FloatFormat.unpack, hb]

theorem FloatFormat.unpack_subnormal (f : FloatFormat) (neg : Bool) (frac : Nat) (hb : 0 ≠ f.expOnes) :
    f.unpack neg 0 frac = .finite ⟨neg, frac, f.minExp⟩ := by
  simp [FloatFormat.unpack, hb]

theorem FloatFormat.represents_of_unpack {f : FloatFormat} {neg : Bool} {biased frac : Nat} {z : Finite}
    (hfrac : frac < 2 ^ f.fracBits) (h : f.unpack neg biased frac = .finite z) : f.Represents z := by
  have hpow : 2 ^ (f.fracBits + 1) = 2 ^ f.fracBits * 2 := pow_succ _ _
  unfold FloatFormat.unpack at h
  split at h
  · split at h <;> cases h
  split at h <;> cases h
  · exact ⟨by simp only; omega, le_rfl⟩
  · exact ⟨by simp only; omega, by simp only; omega⟩

/-- The pattern of `m` at place `j` is that value: a subnormal, a normal one, or a significand that has carried into the
exponent. -/
theorem FloatFormat.unpack_place {f : FloatFormat} (hF : 1 ≤ f.fracBits) (neg : Bool) {j m : Nat}
    (hm : m ≤ 2 ^ (f.fracBits + 1)) (hj : 0 < j → 2 ^ f.fracBits ≤ m)
    (hlt : j * 2 ^ f.fracBits + m < f.expOnes * 2 ^ f.fracBits) :
    ∃ q, f.unpack neg ((j * 2 ^ f.fracBits + m) / 2 ^ f.fracBits) ((j * 2 ^ f.fracBits + m) % 2 ^ f.fracBits) = .finite q
      ∧ q.neg = neg ∧ (q.mant : ℚ) * (2 : ℚ) ^ q.exp = m * (2 : ℚ) ^ (f.minExp + j) ∧ (m % 2 = 0 → q.mant % 2 = 0) := by
  have hP : 0 < 2 ^ f.fracBits := Nat.two_pow_pos _
  have hbiased : (j * 2 ^ f.fracBits + m) / 2 ^ f.fracBits < f.expOnes := Nat.div_lt_of_lt_mul (hlt.trans_eq (mul_comm _ _))
  rw [pow_succ] at hm
  rcases Nat.lt_or_ge m (2 ^ f.fracBits) with hsub | hnorm
  · obtain rfl : j = 0 := by omega
    obtain ⟨hdiv, hmod⟩ : (0 * 2 ^ f.fracBits + m) / 2 ^ f.fracBits = 0 ∧ (0 * 2 ^ f.fracBits + m) % 2 ^ f.fracBits = m :=
      (Nat.div_mod_unique hP).2 ⟨by ring, hsub⟩
    rw [hdiv] at hbiased ⊢
    rw [hmod, f.unpack_subnormal neg m hbiased.ne]
    exact ⟨_, rfl, rfl, by simp, id⟩
  rcases Nat.lt_or_ge m (2 ^ f.fracBits * 2) with hnot | hcarry
  · obtain ⟨hdiv, hmod⟩ : (j * 2 ^ f.fracBits + m) / 2 ^ f.fracBits = j + 1
        ∧ (j * 2 ^ f.fracBits + m) % 2 ^ f.fracBits = m - 2 ^ f.fracBits :=
      (Nat.div_mod_unique hP).2 ⟨by rw [mul_add, mul_comm]; omega, by omega⟩
    rw [hdiv] at hbiased ⊢
    rw [hmod, f.unpack_normal neg _ hbiased.ne, Nat.add_sub_cancel' hnorm]
    exact ⟨_, rfl, rfl, rfl, id⟩
  · obtain rfl : m = 2 ^ f.fracBits * 2 := by omega
    obtain ⟨hdiv, hmod⟩ : (j * 2 ^ f.fracBits + 2 ^ f.fracBits * 2) / 2 ^ f.fracBits = j + 1 + 1
        ∧ (j * 2 ^ f.fracBits + 2 ^ f.fracBits * 2) % 2 ^ f.fracBits = 0 :=
      (Nat.div_mod_unique hP).2 ⟨by ring, hP⟩
    rw [hdiv] at hbiased ⊢
    rw [hmod, f.unpack_normal neg _ hbiased.ne]
    refine ⟨_, rfl, rfl, ?_, fun _ => ?_⟩
    · push_cast
      rw [← add_assoc, zpow_add_one₀ (by norm_num)]
      ring
    · exact Nat.even_iff.1 (Nat.even_pow.2 ⟨even_two, by omega⟩)

/-! ## Nearest among the values of a format -/

/-- A value of the format, in units of the fraction's last place, is an integer, or it lies below the fraction's binade. -/
theorem FloatFormat.represents_scaled {f : FloatFormat} {z : Finite} (hz : f.Represents z) (num den : Nat) {σ : ℤ}
    (hσ : σ ≤ 1) :
    (∃ k : ℤ, σ * (z.mant * (2 : ℚ) ^ z.exp) / (2 : ℚ) ^ f.lastPlace num den = k)
    ∨ (0 < f.placeIndex num den ∧ σ * (z.mant * (2 : ℚ) ^ z.exp) / (2 : ℚ) ^ f.lastPlace num den < 2 ^ f.fracBits) := by
  obtain ⟨hmant, hexp⟩ := hz
  rcases le_or_gt (f.lastPlace num den) z.exp with hle | hgt
  · refine .inl ⟨σ * (z.mant * 2 ^ (z.exp - f.lastPlace num den).toNat), ?_⟩
    push_cast
    rw [mul_div_assoc, mul_div_assoc, ← zpow_sub₀ two_ne_zero, ← zpow_natCast, Int.toNat_of_nonneg (sub_nonneg.2 hle)]
  · refine .inr ⟨by unfold FloatFormat.placeIndex; omega, (div_lt_iff₀ (by positivity)).2 ?_⟩
    have hσ' : (σ : ℚ) ≤ 1 := by exact_mod_cast hσ
    have hmant' : (z.mant : ℚ) < 2 ^ (f.fracBits + 1) := by exact_mod_cast hmant
    calc (σ : ℚ) * (z.mant * (2 : ℚ) ^ z.exp) ≤ 1 * (z.mant * (2 : ℚ) ^ z.exp) :=
          mul_le_mul_of_nonneg_right hσ' (by positivity)
      _ < 2 ^ (f.fracBits + 1) * (2 : ℚ) ^ z.exp := by
          rw [one_mul]
          exact mul_lt_mul_of_pos_right hmant' (by positivity)
      _ = 2 ^ f.fracBits * (2 : ℚ) ^ (z.exp + 1) := by
          rw [zpow_add_one₀ two_ne_zero]
          ring
      _ ≤ 2 ^ f.fracBits * (2 : ℚ) ^ f.lastPlace num den :=
          mul_le_mul_of_nonneg_left (zpow_le_zpow_right₀ one_le_two (by omega)) (by positivity)

/-- In units of the last place the significand is nearest among the integers and the values below the binade. -/
theorem FloatFormat.significand_nearest (f : FloatFormat) {num den : Nat} (hn : num ≠ 0) (hd : den ≠ 0) {t : ℚ}
    (ht : (∃ k : ℤ, t = k) ∨ (0 < f.placeIndex num den ∧ t < 2 ^ f.fracBits)) :
    |f.scaled num den - f.significand num den| ≤ |f.scaled num den - t|
    ∧ (|f.scaled num den - f.significand num den| = |f.scaled num den - t| → t ≠ f.significand num den →
      f.significand num den % 2 = 0) := by
  obtain ⟨hhalf, htie⟩ := f.abs_scaled_sub_significand (num := num) hd
  have hint := nearest_of_abs_sub_le_half (u := f.scaled num den) (m := f.significand num den) (by exact_mod_cast hhalf)
  simp only [Int.cast_natCast] at hint
  rcases ht with ⟨k, rfl⟩ | ⟨hpos, hlt⟩
  · obtain ⟨hle, heq⟩ := hint k
    exact ⟨hle, fun he hne => htie (heq he (by exact_mod_cast hne))⟩
  · have hbinade := f.le_scaled hn hd hpos
    have hcloser : |f.scaled num den - f.significand num den| < |f.scaled num den - t| :=
      calc |f.scaled num den - f.significand num den| ≤ |f.scaled num den - ((2 ^ f.fracBits : Nat) : ℤ)| := (hint _).1
        _ = f.scaled num den - 2 ^ f.fracBits := by
            push_cast
            exact abs_of_nonneg (sub_nonneg.2 hbinade)
        _ < f.scaled num den - t := sub_lt_sub_left hlt _
        _ ≤ |f.scaled num den - t| := le_abs_self _
    exact ⟨hcloser.le, fun he => absurd he hcloser.ne⟩

/-! ## Overflow -/

/-- Halfway between the largest finite value of the format and the power of two above it. -/
def FloatFormat.overflowLimit (f : FloatFormat) : ℚ :=
  (2 ^ (f.fracBits + 1) - 1 / 2) * (2 : ℚ) ^ (f.minExp + ((f.expOnes - 2 : Nat) : Int))

theorem FloatFormat.overflowLimit_pos (f : FloatFormat) : 0 < f.overflowLimit := by
  have : (1 : ℚ) ≤ 2 ^ (f.fracBits + 1) := one_le_pow₀ one_le_two
  exact mul_pos (by linarith) (by positivity)

/-- A place is at most half of every higher one. -/
theorem FloatFormat.place_mul_two_le (f : FloatFormat) {i j : Nat} (h : i < j) :
    (2 : ℚ) ^ (f.minExp + i) * 2 ≤ (2 : ℚ) ^ (f.minExp + j) := by
  rw [← zpow_add_one₀ two_ne_zero]
  exact zpow_le_zpow_right₀ one_le_two (by omega)

/-- At the format's last place the significand carries from the half on: the largest significand is odd and gives way at
the tie. -/
theorem FloatFormat.significand_carries_iff (f : FloatFormat) {num den : Nat} (hd : den ≠ 0) :
    2 ^ (f.fracBits + 1) ≤ f.significand num den ↔ 2 ^ (f.fracBits + 1) - 1 / 2 ≤ f.scaled num den := by
  obtain ⟨hhalf, htie⟩ := f.abs_scaled_sub_significand (num := num) hd
  obtain ⟨hlow, hhigh⟩ := abs_le.1 hhalf
  constructor
  · intro hcarry
    have : (2 ^ (f.fracBits + 1) : ℚ) ≤ f.significand num den := by exact_mod_cast hcarry
    linarith
  · intro hfrom
    by_contra hno
    have hsucc : (f.significand num den + 1 : ℚ) ≤ 2 ^ (f.fracBits + 1) := by exact_mod_cast Nat.not_le.1 hno
    have hodd : f.significand num den + 1 = 2 ^ (f.fracBits + 1) := by
      have : (f.significand num den + 1 : ℚ) = 2 ^ (f.fracBits + 1) := by linarith
      exact_mod_cast this
    have heven : f.significand num den % 2 = 0 := htie <| le_antisymm hhalf <| by
      rw [abs_of_nonneg] <;> linarith
    rw [pow_succ] at hodd
    omega

/-- The rounded magnitude reaches infinity's pattern exactly from the overflow limit on. -/
theorem FloatFormat.overflow_iff {f : FloatFormat} (hE : 2 ≤ f.expOnes) {num den : Nat} (hn : num ≠ 0) (hd : den ≠ 0) :
    f.expOnes * 2 ^ f.fracBits ≤ f.placeIndex num den * 2 ^ f.fracBits + f.significand num den
      ↔ f.overflowLimit ≤ num / den := by
  obtain ⟨last, hlast⟩ := Nat.exists_eq_add_of_le' hE
  have hcarry := f.significand_carries_iff (num := num) hd
  have hP : 0 < 2 ^ f.fracBits := Nat.two_pow_pos _
  have hP' : (1 : ℚ) ≤ 2 ^ f.fracBits := one_le_pow₀ one_le_two
  have hplace : (0 : ℚ) < (2 : ℚ) ^ (f.minExp + last) := by positivity
  rw [← f.scaled_mul num den, FloatFormat.overflowLimit, hlast, Nat.add_sub_cancel]
  rcases lt_trichotomy (f.placeIndex num den) last with hbelow | hat | habove
  · refine iff_of_false (Nat.not_le.2 ?_) (not_le.2 ?_)
    · calc f.placeIndex num den * 2 ^ f.fracBits + f.significand num den
          ≤ f.placeIndex num den * 2 ^ f.fracBits + 2 ^ (f.fracBits + 1) :=
            Nat.add_le_add_left (f.significand_le hn hd) _
        _ = (f.placeIndex num den + 2) * 2 ^ f.fracBits := by ring
        _ < (last + 2) * 2 ^ f.fracBits := Nat.mul_lt_mul_of_pos_right (by omega) hP
    · calc f.scaled num den * (2 : ℚ) ^ (f.minExp + f.placeIndex num den)
          < 2 ^ (f.fracBits + 1) * (2 : ℚ) ^ (f.minExp + f.placeIndex num den) :=
            mul_lt_mul_of_pos_right (f.scaled_lt hn hd) (by positivity)
        _ = 2 ^ f.fracBits * ((2 : ℚ) ^ (f.minExp + f.placeIndex num den) * 2) := by ring
        _ ≤ 2 ^ f.fracBits * (2 : ℚ) ^ (f.minExp + last) :=
            mul_le_mul_of_nonneg_left (f.place_mul_two_le hbelow) (by positivity)
        _ ≤ (2 ^ (f.fracBits + 1) - 1 / 2) * (2 : ℚ) ^ (f.minExp + last) :=
            mul_le_mul_of_nonneg_right (by rw [pow_succ]; linarith) hplace.le
  · rw [hat, mul_le_mul_iff_left₀ hplace, ← hcarry, add_mul, Nat.add_le_add_iff_left, pow_succ, mul_comm]
  · have hpos : 0 < f.placeIndex num den := by omega
    refine iff_of_true ?_ ?_
    · calc (last + 2) * 2 ^ f.fracBits ≤ (f.placeIndex num den + 1) * 2 ^ f.fracBits :=
            Nat.mul_le_mul_right _ (by omega)
        _ = f.placeIndex num den * 2 ^ f.fracBits + 2 ^ f.fracBits := by ring
        _ ≤ f.placeIndex num den * 2 ^ f.fracBits + f.significand num den :=
            Nat.add_le_add_left (f.le_significand hn hd hpos) _
    · calc (2 ^ (f.fracBits + 1) - 1 / 2) * (2 : ℚ) ^ (f.minExp + last)
          ≤ 2 ^ (f.fracBits + 1) * (2 : ℚ) ^ (f.minExp + last) :=
            mul_le_mul_of_nonneg_right (by linarith) hplace.le
        _ = 2 ^ f.fracBits * ((2 : ℚ) ^ (f.minExp + last) * 2) := by ring
        _ ≤ 2 ^ f.fracBits * (2 : ℚ) ^ (f.minExp + f.placeIndex num den) :=
            mul_le_mul_of_nonneg_left (f.place_mul_two_le habove) (by positivity)
        _ ≤ f.scaled num den * (2 : ℚ) ^ (f.minExp + f.placeIndex num den) :=
            mul_le_mul_of_nonneg_right (f.le_scaled hn hd hpos) (by positivity)

/-! ## Correct rounding -/

/-- The sign of a value, as a factor. -/
def signFactor (neg : Bool) : ℤ := if neg then -1 else 1

theorem signFactor_mul_self (neg : Bool) : (signFactor neg * signFactor neg : ℚ) = 1 := by
  cases neg <;> simp [signFactor]

theorem signFactor_mul (x y : Bool) : signFactor x * signFactor y = signFactor (x != y) := by
  cases x <;> cases y <;> rfl

theorem signFactor_le_one (neg : Bool) : signFactor neg ≤ 1 := by
  cases neg <;> decide

theorem abs_signFactor_mul (neg : Bool) (x : ℚ) : |signFactor neg * x| = |x| := by
  cases neg <;> simp [signFactor]

theorem Finite.toRat_eq (x : Finite) : x.toRat = signFactor x.neg * (x.mant * (2 : ℚ) ^ x.exp) := by
  cases h : x.neg <;> simp [Finite.toRat, signFactor, h]

/-- The distance of a signed fraction to a value, in units of a place `w`. -/
theorem abs_signed_sub (neg : Bool) (u y : ℚ) {w : ℚ} (hw : 0 < w) :
    |signFactor neg * (u * w) - y| = |u - signFactor neg * y / w| * w := by
  calc |signFactor neg * (u * w) - y| = |signFactor neg * (u * w - signFactor neg * y)| := by
        rw [mul_sub, ← mul_assoc _ _ y, signFactor_mul_self, one_mul]
    _ = |(u - signFactor neg * y / w) * w| := by
        rw [abs_signFactor_mul, sub_mul, div_mul_cancel₀ _ hw.ne']
    _ = |u - signFactor neg * y / w| * w := by
        rw [abs_mul, abs_of_pos hw]

/-- The signed significand at its place is nearest to the signed fraction among the format's values of either sign. -/
theorem FloatFormat.signed_nearest (f : FloatFormat) {num den : Nat} (hn : num ≠ 0) (hd : den ≠ 0) (neg : Bool) {y : ℚ}
    (hy : y = signFactor neg * (f.significand num den * (2 : ℚ) ^ (f.minExp + f.placeIndex num den))) {z : Finite}
    (hz : f.Represents z) :
    |signFactor neg * (num / den) - y| ≤ |signFactor neg * (num / den) - z.toRat|
    ∧ (|signFactor neg * (num / den) - y| = |signFactor neg * (num / den) - z.toRat| → z.toRat ≠ y →
      f.significand num den % 2 = 0) := by
  have hw : (0 : ℚ) < (2 : ℚ) ^ (f.minExp + f.placeIndex num den) := by positivity
  have hyw : signFactor neg * y / (2 : ℚ) ^ (f.minExp + f.placeIndex num den) = f.significand num den := by
    rw [hy, ← mul_assoc, signFactor_mul_self, one_mul, mul_div_cancel_right₀ _ hw.ne']
  have hzw : signFactor neg * z.toRat / (2 : ℚ) ^ (f.minExp + f.placeIndex num den)
      = (signFactor (neg != z.neg) : ℤ) * (z.mant * (2 : ℚ) ^ z.exp) / (2 : ℚ) ^ f.lastPlace num den := by
    rw [z.toRat_eq, ← mul_assoc, ← Int.cast_mul, signFactor_mul, f.minExp_add_placeIndex]
  obtain ⟨hle, htie⟩ := f.significand_nearest hn hd <|
    hzw ▸ FloatFormat.represents_scaled hz num den (signFactor_le_one (neg != z.neg))
  rw [← f.scaled_mul num den, abs_signed_sub neg _ y hw, abs_signed_sub neg _ z.toRat hw, hyw]
  refine ⟨mul_le_mul_of_nonneg_right hle hw.le, fun heq hne => htie (mul_right_cancel₀ hw.ne' heq) fun hsame => hne ?_⟩
  calc z.toRat = signFactor neg * (signFactor neg * z.toRat) := by rw [← mul_assoc, signFactor_mul_self, one_mul]
    _ = y := by rw [(div_eq_iff hw.ne').1 hsame, hy]

/-- A pattern made of a sign and a rounded magnitude is the signed fraction correctly rounded, in every format. -/
theorem correctlyRounded_roundMagnitude {f : FloatFormat} (hF : 1 ≤ f.fracBits) (hE : 2 ≤ f.expOnes) {n : Nat}
    {unpack : BitVec n → FloatValue} (hrep : ∀ r z, unpack r = .finite z → f.Represents z) (neg : Bool) (num : Nat)
    {den : Nat} (hd : den ≠ 0) {p : BitVec n}
    (hp : unpack p = f.unpack neg (f.roundMagnitude num den / 2 ^ f.fracBits) (f.roundMagnitude num den % 2 ^ f.fracBits)) :
    CorrectlyRounded unpack f.overflowLimit (signFactor neg * (num / den)) neg p := by
  have habs : |(signFactor neg : ℚ) * (num / den)| = num / den := by
    rw [abs_signFactor_mul, abs_of_nonneg (by positivity)]
  unfold CorrectlyRounded
  rw [habs]
  rcases eq_or_ne num 0 with rfl | hn
  · refine ⟨fun hlim => absurd hlim (by simpa using f.overflowLimit_pos), fun _ => ?_⟩
    rw [hp, FloatFormat.roundMagnitude, if_pos rfl, Nat.zero_div, Nat.zero_mod, f.unpack_subnormal neg 0 (by omega)]
    refine ⟨_, rfl, rfl, fun r z _ => ?_⟩
    have hq : Finite.toRat ⟨neg, 0, f.minExp⟩ = 0 := by simp [Finite.toRat]
    simp [hq]
  · have hP : 0 < 2 ^ f.fracBits := Nat.two_pow_pos _
    rw [hp, f.roundMagnitude_eq hn, ← f.overflow_iff hE hn hd, ← not_le, ← f.overflow_iff hE hn hd]
    refine ⟨fun hover => ?_, fun hfits => ?_⟩
    · rw [min_eq_right hover, Nat.mul_div_cancel _ hP, Nat.mul_mod_left]
      simp [FloatFormat.unpack]
    · rw [min_eq_left (Nat.not_le.1 hfits).le]
      obtain ⟨q, hunpack, hneg, hval, heven⟩ := f.unpack_place hF neg (f.significand_le hn hd) (f.le_significand hn hd)
        (Nat.not_le.1 hfits)
      refine ⟨q, hunpack, hneg, fun r z hz => ?_⟩
      obtain ⟨hle, htie⟩ := f.signed_nearest hn hd neg (y := q.toRat) (by rw [q.toRat_eq, hneg, hval]) (hrep r z hz)
      exact ⟨hle, fun heq hne => heven (htie heq hne)⟩

/-! ## The binary64 quotient -/

theorem binary64_represents_of_unpack64 (r : Word64) (z : Finite) (h : unpack64 r = .finite z) : binary64.Represents z :=
  FloatFormat.represents_of_unpack (BitVec.isLt _) h

theorem binary64_overflowLimit : binary64.overflowLimit = 2 ^ 1024 * (1 - 1 / 2 ^ 54) := by
  have hplace : (2 : ℚ) ^ (binary64.minExp + ((binary64.expOnes - 2 : Nat) : Int)) = 2 ^ 971 := zpow_natCast 2 971
  have hsplit : (2 : ℚ) ^ 1024 = 2 ^ 53 * 2 ^ 971 := pow_add 2 53 971
  rw [FloatFormat.overflowLimit, hplace, hsplit, mul_right_comm]
  congr 1
  norm_num [binary64]

/-- Packing a sign and a magnitude rounded to binary64 rounds the signed fraction correctly. -/
theorem correctlyRounded64_pack64 (neg : Bool) (num : Nat) {den : Nat} (hd : den ≠ 0) :
    CorrectlyRounded64 (signFactor neg * (num / den)) neg (pack64 neg (binary64.roundMagnitude num den)) := by
  have hlt : binary64.roundMagnitude num den < 2 ^ 63 :=
    (binary64.roundMagnitude_le num den).trans_lt (by decide)
  rw [CorrectlyRounded64, ← binary64_overflowLimit]
  exact correctlyRounded_roundMagnitude (by decide) (by decide) binary64_represents_of_unpack64 neg num hd
    (unpack64_pack64 neg hlt)

theorem Finite.den_ne_zero (x : Finite) : x.den ≠ 0 := (powDen_pos _).ne'

theorem Finite.num_ne_zero {x : Finite} (h : x.mant ≠ 0) : x.num ≠ 0 := Nat.mul_ne_zero h (powNum_pos _).ne'

theorem Finite.toRat_eq_div (x : Finite) : x.toRat = signFactor x.neg * (x.num / x.den) := by
  have hden : (powDen x.exp : ℚ) ≠ 0 := by exact_mod_cast x.den_ne_zero
  rw [x.toRat_eq, Finite.num, Finite.den, Nat.cast_mul, powNum_eq, ← mul_assoc (x.mant : ℚ),
    mul_div_cancel_right₀ _ hden]

/-- Settles O34: the quotient is the signed fraction that `f64Div` rounds. -/
theorem divisionIsCorrectlyRounded : Obligations.DivisionIsCorrectlyRounded := by
  intro a b hb
  have hquot : a.toRat / b.toRat
      = signFactor (a.neg != b.neg) * ((a.num * b.den : Nat) / (a.den * b.num : Nat)) := by
    rw [a.toRat_eq_div, b.toRat_eq_div, ← signFactor_mul]
    have hsq : (signFactor b.neg : ℚ)⁻¹ = signFactor b.neg :=
      inv_eq_of_mul_eq_one_left (signFactor_mul_self b.neg)
    rw [mul_div_mul_comm, div_eq_mul_inv (signFactor a.neg : ℚ), hsq, div_div_div_eq]
    push_cast
    rfl
  rw [hquot]
  exact correctlyRounded64_pack64 _ _ (Nat.mul_ne_zero a.den_ne_zero (Finite.num_ne_zero hb))

end Sys2Proof.Machine
end

section
/-! The host's side (10_state.md R33): what a command word, a host read and a host write do, and the fields of the
views that a read returns (R30, R31). -/

namespace Sys2Proof.Machine

/-! ## Serving the oldest access -/

theorem step_of_queue_cons {s : State} {a : Transaction} {rest : List Transaction} (h : s.port.queue = a :: rest) :
    step s = serve a (s.withQueue rest) := by
  simp only [step, serveNext, h]

/-! ## The command word -/

theorem runCommand_of_decoded {s : State} {w : Word32} {i : Instr} (hf : s.fault = false)
    (hw : decodeCommand w = .ok i) : runCommand w s = exec i s := by
  simp [runCommand, hf, hw]

theorem runCommand_of_illegal {s : State} {w : Word32} {why : Reject} (hf : s.fault = false)
    (hw : decodeCommand w = .error why) : runCommand w s = .next (s.raised .illegalCommand) := by
  simp [runCommand, hf, hw, raise_of_running]

theorem runCommand_of_faulted {s : State} {w : Word32} (hf : s.fault = true) (hw : w ≠ 0x00000001#32) :
    runCommand w s = .next s := by
  simp [runCommand, hf, hw]

/-- The one word that is executed while FAULT = 1 (60_exceptions.md R204, R207). -/
theorem runCommand_reset_of_faulted {s : State} (hf : s.fault = true) :
    runCommand 0x00000001#32 s = .next s.resetAll := by
  simp [runCommand, hf, exec, execReset]

/-- Settles O6: serving an `issue` runs its word in the state that holds its DIN. -/
theorem stepRunsDecodedCommand : Obligations.StepRunsDecodedCommand := by
  intro s w d rest i hq hf hw
  calc step s = runCommand w { s.withQueue rest with din := d } := step_of_queue_cons hq
    _ = exec i { s.withQueue rest with din := d } := runCommand_of_decoded hf hw

/-! ## Host reads -/

theorem State.hostRegister_of_five_lt (s : State) {k : Nat} (h : 5 < k) : s.hostRegister k = 0#64 := by
  obtain ⟨n, rfl⟩ := Nat.exists_eq_add_of_le' h
  rfl

@[simp] theorem State.hostRegister_withQueue (s : State) (q : List Transaction) (k : Nat) :
    (s.withQueue q).hostRegister k = s.hostRegister k := rfl

/-- Settles O57: a read leaves `hostRead` of the state, whose `rdata` is the register that the index names. -/
theorem hostReadsChangeNothing : Obligations.HostReadsChangeNothing := by
  intro s k rest hq
  have hdata : ((s.withQueue rest).hostRead k).port.rdata = s.hostRegister k := s.hostRegister_withQueue rest k
  refine ⟨(s.withQueue rest).hostRead k, step_of_queue_cons hq, rfl, rfl, ?_⟩
  rw [hdata]
  refine ⟨?_, ?_, ?_, ?_, ?_, s.hostRegister_of_five_lt⟩ <;> rintro rfl <;> rfl

/-! ## Host writes -/

theorem hostWrite_zero (v : Word64) (s : State) : hostWrite 0 v s = runCommand (v.setWidth 32) s := rfl

theorem hostWrite_one (v : Word64) (s : State) : hostWrite 1 v s = .next { s with din := v } := rfl

theorem hostWrite_of_two_le {k : Nat} (h : 2 ≤ k) (v : Word64) (s : State) : hostWrite k v s = .next s := by
  obtain ⟨n, rfl⟩ := Nat.exists_eq_add_of_le' h
  rfl

/-- Settles O58: a write of CMD is its word's `runCommand`, and every other write is one equation of `hostWrite`. -/
theorem hostWritesOutsideCommand : Obligations.HostWritesOutsideCommand := by
  intro s k v rest hq
  have hstep : step s = hostWrite k v (s.withQueue rest) := step_of_queue_cons hq
  rw [hstep]
  refine ⟨?din, fun hk => hostWrite_of_two_le hk v _, ?running, ?faulted⟩
  case din =>
    rintro rfl
    exact hostWrite_one v _
  case running =>
    rintro rfl hf
    rw [hostWrite_zero]
    exact ⟨fun _ hw => runCommand_of_decoded hf hw, fun _ hw => runCommand_of_illegal hf hw⟩
  case faulted =>
    rintro rfl hf
    rw [hostWrite_zero]
    refine ⟨fun hw => runCommand_of_faulted hf hw, fun hw => ?_⟩
    rw [hw]
    exact runCommand_reset_of_faulted hf

/-! ## The views

A view is its fields one above the other. A field is extracted from it by dropping the parts below, each by its width,
and then leaving out the parts above. -/

/-- STATUS (10_state.md R30). -/
theorem State.statusView_fields (s : State) :
    s.statusView.extractLsb' 0 1 = BitVec.ofBool s.fault ∧ s.statusView.extractLsb' 1 3 = s.err.code
    ∧ s.statusView.extractLsb' 4 1 = BitVec.ofBool s.cact ∧ s.statusView.extractLsb' 5 3 = s.pstate.code
    ∧ s.statusView.extractLsb' 8 3 = s.ccur.code ∧ s.statusView.extractLsb' 11 2 = s.pres
    ∧ s.statusView.extractLsb' 13 3 = 0#3 ∧ s.statusView.extractLsb' 16 8 = s.prem
    ∧ s.statusView.extractLsb' 24 8 = 0#8 := by
  simp (disch := decide) only [State.statusView, BitVec.extractLsb'_append_eq_of_le,
    BitVec.extractLsb'_append_eq_of_add_le, BitVec.extractLsb'_eq_self, Nat.reduceSub, and_self]

/-- LENS (10_state.md R31). -/
theorem State.lensView_fields (s : State) :
    s.lensView.extractLsb' 0 7 = s.flen ∧ s.lensView.extractLsb' 7 1 = 0#1 ∧ s.lensView.extractLsb' 8 7 = s.rcur
    ∧ s.lensView.extractLsb' 15 1 = 0#1 ∧ s.lensView.extractLsb' 16 8 = s.cn ∧ s.lensView.extractLsb' 24 8 = s.ci := by
  simp (disch := decide) only [State.lensView, BitVec.extractLsb'_append_eq_of_le,
    BitVec.extractLsb'_append_eq_of_add_le, BitVec.extractLsb'_eq_self, Nat.reduceSub, and_self]

/-- AUX (10_state.md R31). -/
theorem State.auxView_fields (s : State) :
    s.auxView.extractLsb' 0 8 = s.cbase ∧ s.auxView.extractLsb' 8 8 = 0#8 ∧ s.auxView.extractLsb' 16 16 = s.cstart
    ∧ s.auxView.extractLsb' 32 16 = s.pnext ∧ s.auxView.extractLsb' 48 16 = 0#16 := by
  simp (disch := decide) only [State.auxView, BitVec.extractLsb'_append_eq_of_le,
    BitVec.extractLsb'_append_eq_of_add_le, BitVec.extractLsb'_eq_self, Nat.reduceSub, and_self]

/-- Settles O59: the codes are read off their tables, the fields off each view. -/
theorem viewFields : Obligations.ViewFields :=
  ⟨⟨rfl, rfl, rfl⟩, fun s => ⟨s.statusView_fields, s.lensView_fields, s.auxView_fields⟩⟩

end Sys2Proof.Machine
end

section
/-! The little-endian read (00_scope.md R10, 20_memory.md R54): its value as a number, and an append read back.

The bytes of `readLE` do not overlap, so for at most four of them its `or` of shifted bytes is a sum. -/

namespace Sys2Proof.Machine

/-! ## The value of a little-endian read -/

theorem Memory.toNat_readLE_lt (m : Memory) : ∀ (n a : Nat), (m.readLE a n).toNat < 2 ^ (8 * n)
  | 0, _ => by simp [Memory.readLE]
  | n + 1, a => by
    have hrest := Memory.toNat_readLE_lt m n (a + 1)
    have hpow : 2 ^ (8 * (n + 1)) = 2 ^ (8 * n) * 2 ^ 8 := by rw [Nat.mul_succ, Nat.pow_add]
    rw [Memory.readLE, BitVec.toNat_or]
    apply Nat.or_lt_two_pow
    · have hone := Nat.one_le_two_pow (n := 8 * n)
      have hbyte := (m.read a).isLt
      rw [BitVec.toNat_setWidth]
      omega
    · rw [BitVec.toNat_shiftLeft, Nat.shiftLeft_eq]
      omega

/-- Little-endian order as a sum: the first byte, and 256 times what the later bytes give. -/
theorem Memory.toNat_readLE_succ (m : Memory) (a : Nat) {n : Nat} (hn : n < 4) :
    (m.readLE a (n + 1)).toNat = (m.read a).toNat + 2 ^ 8 * (m.readLE (a + 1) n).toNat := by
  have hbyte := (m.read a).isLt
  have hrest : (m.readLE (a + 1) n).toNat < 2 ^ 24 :=
    (m.toNat_readLE_lt n (a + 1)).trans_le (Nat.pow_le_pow_right (by decide) (by omega))
  have hlow : ((m.read a).setWidth 32).toNat = (m.read a).toNat := by
    rw [BitVec.toNat_setWidth]
    omega
  have hhigh : (m.readLE (a + 1) n <<< 8).toNat = (m.readLE (a + 1) n).toNat <<< 8 := by
    rw [BitVec.toNat_shiftLeft, Nat.shiftLeft_eq]
    omega
  calc (m.readLE a (n + 1)).toNat
      = (m.read a).toNat ||| (m.readLE (a + 1) n).toNat <<< 8 := by rw [Memory.readLE, BitVec.toNat_or, hlow, hhigh]
    _ = (m.readLE (a + 1) n).toNat <<< 8 + (m.read a).toNat := by
      rw [Nat.shiftLeft_add_eq_or_of_lt hbyte, Nat.or_comm]
    _ = (m.read a).toNat + 2 ^ 8 * (m.readLE (a + 1) n).toNat := by rw [Nat.shiftLeft_eq]; omega

/-- Where the bytes of v stand, least significant first, the read gives back v's low bytes. -/
theorem Memory.toNat_readLE_of_read {m : Memory} : ∀ {n a : Nat} {v : Word64}, n ≤ 4 →
    (∀ k, k < n → m.read (a + k) = (v >>> (8 * k)).setWidth 8) → (m.readLE a n).toNat = v.toNat % 2 ^ (8 * n)
  | 0, _, _, _, _ => by simp [Memory.readLE, Nat.mod_one]
  | n + 1, a, v, hn, hbytes => by
    have hfirst : (m.read a).toNat = v.toNat % 2 ^ 8 := by
      rw [← Nat.add_zero a, hbytes 0 n.succ_pos, BitVec.toNat_setWidth, Nat.mul_zero, BitVec.ushiftRight_zero]
    have hrest : (m.readLE (a + 1) n).toNat = (v >>> 8).toNat % 2 ^ (8 * n) := by
      refine Memory.toNat_readLE_of_read (by omega) fun k hk => ?_
      rw [Nat.add_assoc, Nat.add_comm 1, hbytes (k + 1) (by omega), ← BitVec.shiftRight_add, Nat.mul_succ,
        Nat.add_comm 8]
    rw [Memory.toNat_readLE_succ m a hn, hfirst, hrest, BitVec.toNat_ushiftRight, Nat.shiftRight_eq_div_pow,
      ← Nat.mod_mul, ← Nat.pow_add, Nat.mul_succ, Nat.add_comm 8]

/-! ## An append read back -/

/-- Byte k of an appended value stands k places past the old FLEN. -/
theorem State.read_append_bytesLE {s : State} {n k : Nat} (v : Word64) (hfit : s.flen.toNat + n ≤ Config.fbCap)
    (hwf : s.fb.wf = true) (hk : k < n) :
    (s.append (bytesLE n v)).fb.read (s.flen.toNat + k) = (v >>> (8 * k)).setWidth 8 := by
  have hin : s.flen.toNat ≤ s.flen.toNat + k ∧ s.flen.toNat + k < s.flen.toNat + (bytesLE n v).length := by
    rw [length_bytesLE]
    omega
  calc (s.append (bytesLE n v)).fb.read (s.flen.toNat + k)
      = (bytesLE n v)[s.flen.toNat + k - s.flen.toNat]'(by omega) :=
        (State.readByte_append (by rwa [length_bytesLE]) hwf _).trans (dif_pos hin)
    _ = (v >>> (8 * k)).setWidth 8 := by rw [getElem_bytesLE, Nat.add_sub_cancel_left]

/-- Settles O24: the appended bytes stand at the old FLEN in the order in which the read takes them. -/
theorem littleEndianReadAfterAppend : Obligations.LittleEndianReadAfterAppend := fun _s _w v hw hwf hfit =>
  Memory.toNat_readLE_of_read hw fun _k hk => State.read_append_bytesLE v hfit hwf hk

end Sys2Proof.Machine
end

section
/-! Encoding and decoding (30_encoding.md sections 1 and 2): the decoder inverts the encoder, a word that decodes is an
encoding, and the checks of R73 stand in their order.

A command word is an `or` of fields, each placed at its bit. Reading a field back and masking a word by the bits a
command uses are facts about one placed field; the commands only say which fields they have. -/

namespace Sys2Proof

/-! ## One field placed in a word -/

theorem extract_placed_same {n : Nat} (x : BitVec n) {k : Nat} (hin : k + n ≤ 32) :
    (x.setWidth 32 <<< k).extractLsb' k n = x := by
  ext i hi
  have hword : k + i < 32 ∧ i < 32 := by omega
  simp [hword, BitVec.getLsbD_eq_getElem hi]

theorem extract_placed_disjoint {n m : Nat} (x : BitVec n) {j k : Nat} (hapart : j + n ≤ k ∨ k + m ≤ j) :
    (x.setWidth 32 <<< j).extractLsb' k m = 0#m := by
  ext i hi
  simp only [BitVec.getElem_extractLsb', BitVec.getLsbD_shiftLeft, BitVec.getLsbD_setWidth, BitVec.getElem_zero,
    Bool.and_eq_false_imp, Bool.and_eq_true, decide_eq_true_eq, Bool.not_eq_true', decide_eq_false_iff_not]
  exact fun hk _ => BitVec.getLsbD_of_ge _ _ (by omega)

/-- A mask sees a placed field only through the mask's own bits there. -/
theorem placed_and {n : Nat} (x : BitVec n) (k : Nat) (mask : Word32) :
    x.setWidth 32 <<< k &&& mask = (x &&& mask.extractLsb' k n).setWidth 32 <<< k := by
  ext i hi
  by_cases hlow : i < k
  · simp [hlow]
  · by_cases hhigh : i - k < n
    · have hpos : k + (i - k) = i := by omega
      simp [hlow, hhigh, hpos, BitVec.getLsbD_eq_getElem hi]
    · simp [hlow, hhigh, BitVec.getLsbD_of_ge x (i - k) (by omega)]

/-- The bits k to k + n − 1 of a word. -/
def fieldMask (k n : Nat) : Word32 := (BitVec.allOnes n).setWidth 32 <<< k

/-- A field of a word, put back where it was read, is the word under the field's mask. -/
theorem placed_extract (w : Word32) (k n : Nat) :
    (w.extractLsb' k n).setWidth 32 <<< k = w &&& fieldMask k n := by
  rw [fieldMask, BitVec.and_comm, placed_and, BitVec.allOnes_and]

/-- A word without bits outside a mask is its own part under the mask. -/
theorem and_mask_of_unused {w mask : Word32} (h : w &&& ~~~mask = 0#32) : w &&& mask = w := by
  calc w &&& mask = w &&& mask ||| w &&& ~~~mask := by rw [h, BitVec.or_zero]
    _ = w := by rw [← BitVec.and_or_distrib_left, BitVec.or_not_self, BitVec.and_allOnes]

/-! ## Wire opcode bytes -/

@[simp] theorem wireFamily_append (f low : BitVec 4) : wireFamily (f ++ low) = Family.ofNibble f := by
  rw [wireFamily, BitVec.extractLsb'_append_eq_of_le (by decide), BitVec.extractLsb'_eq_self]

@[simp] theorem wireLow_append (f low : BitVec 4) : wireLow (f ++ low) = low := by
  rw [wireLow, BitVec.extractLsb'_append_eq_of_add_le (by decide), BitVec.extractLsb'_eq_self]

theorem wireRC_append (f : BitVec 4) (rc c : BitVec 2) : wireRC (f ++ (rc ++ c)) = rc := by
  rw [wireRC, BitVec.extractLsb'_append_eq_of_add_le (by decide), BitVec.extractLsb'_append_eq_of_le (by decide),
    BitVec.extractLsb'_eq_self]

theorem wireC_append (f : BitVec 4) (rc c : BitVec 2) : wireC (f ++ (rc ++ c)) = c := by
  rw [wireC, BitVec.extractLsb'_append_eq_of_add_le (by decide), BitVec.extractLsb'_append_eq_of_add_le (by decide),
    BitVec.extractLsb'_eq_self]

/-- Settles O3: the high nibble alone picks the arm of the decoder, and the low bits are that arm's operands. -/
theorem wireByteFamilies : Obligations.WireByteFamilies := by
  refine ⟨fun rc c => ⟨?write, ?read, ?reply⟩, fun low => ?others⟩
  case others => simp [decodeWire, Family.ofNibble]
  case write | read | reply =>
    rw [decodeWire, wireFamily_append, wireRC_append, wireC_append]
    rfl

/-! ## The checks of a command word, one by one -/

theorem decodeCommand_of_reserved {w : Word32} (h : ∀ op : Opcode, op.code ≠ fieldOp w) :
    decodeCommand w = .error .reservedOpcode := by
  simp [decodeCommand, Opcode.ofCode?_eq_none.2 h]

theorem decodeCommand_of_unusedBit {w : Word32} {op : Opcode} (hop : op.code = fieldOp w)
    (h : w &&& ~~~op.usedBits ≠ 0#32) : decodeCommand w = .error .unusedBit := by
  simp [decodeCommand, ← hop, h]

theorem decodeCommand_of_known {w : Word32} {op : Opcode} (hop : op.code = fieldOp w)
    (h : w &&& ~~~op.usedBits = 0#32) : decodeCommand w = decodeOperands op w := by
  simp [decodeCommand, ← hop, h]

/-- The commands with a RES operand (30_encoding.md R71). -/
def resOpcodes : List Opcode := [.fbAppendRaw, .fbAppendQ, .qQuant, .qDequant, .cmbDecl]

theorem withRes_of_code {w : Word32} {r : Resolution} (h : fieldRes w = r.code) (mk : Resolution → Instr) :
    withRes w mk = .ok (mk r) := by
  simp [withRes, h]

theorem withRes_of_reserved {w : Word32} (h : 5 ≤ (fieldRes w).toNat) (mk : Resolution → Instr) :
    withRes w mk = .error .reservedResolution := by
  simp [withRes, Resolution.ofCode?_eq_none.2 h]

theorem withRes_of_lt {w : Word32} (h : (fieldRes w).toNat < 5) (mk : Resolution → Instr) :
    ∃ i, withRes w mk = .ok i := by
  cases hr : Resolution.ofCode? (fieldRes w) with
  | none => exact absurd (Resolution.ofCode?_eq_none.1 hr) (by omega)
  | some r => exact ⟨mk r, withRes_of_code (Resolution.code_of_ofCode? hr).symm mk⟩

theorem ifLegal_of_wellFormed {i : Instr} (h : i.WellFormed) (why : Reject) : ifLegal i why = .ok i := by
  simp [ifLegal, h]

theorem ifLegal_of_illegal {i : Instr} (h : ¬i.WellFormed) (why : Reject) : ifLegal i why = .error why := by
  simp [ifLegal, h]

theorem wellFormed_fbSetlen (len : BitVec 7) : (Instr.fbSetlen len).WellFormed ↔ len.toNat ≤ 64 := decide_eq_true_iff

theorem wellFormed_cmbInit (base : Byte) : (Instr.cmbInit base).WellFormed ↔ base ∈ legalBases := List.contains_iff_mem

theorem decodeOperands_of_reservedRes {op : Opcode} {w : Word32} (hop : op ∈ resOpcodes)
    (h : 5 ≤ (fieldRes w).toNat) : decodeOperands op w = .error .reservedResolution := by
  simp only [resOpcodes, List.mem_cons, List.not_mem_nil, or_false] at hop
  obtain rfl | rfl | rfl | rfl | rfl := hop <;> exact withRes_of_reserved h _

/-- A command whose operands pass the last three checks decodes: no sixth check follows (30_encoding.md R73). -/
theorem decodeOperands_of_legal {op : Opcode} {w : Word32} (hres : op ∈ resOpcodes → (fieldRes w).toNat < 5)
    (hlen : op = .fbSetlen → (fieldLen w).toNat ≤ 64) (hbase : op = .cmbInit → fieldBase w ∈ legalBases) :
    ∃ i, decodeOperands op w = .ok i := by
  cases op with
  | reset | fbClear | fbPut | fbGet | cmbStep | cmbEnd | prsInit | prsNext => exact ⟨_, rfl⟩
  | fbSetlen => exact ⟨_, ifLegal_of_wellFormed ((wellFormed_fbSetlen _).2 (hlen rfl)) _⟩
  | cmbInit => exact ⟨_, ifLegal_of_wellFormed ((wellFormed_cmbInit _).2 (hbase rfl)) _⟩
  | fbAppendRaw | fbAppendQ | qQuant | qDequant | cmbDecl => exact withRes_of_lt (hres (by decide)) _

/-- Settles O4: each check is one lemma about the part of the decoder that makes it. -/
theorem illegalWordsInOrder : Obligations.IllegalWordsInOrder := by
  intro w
  refine ⟨decodeCommand_of_reserved, fun op hop => ⟨decodeCommand_of_unusedBit hop, fun hused => ?_⟩⟩
  rw [decodeCommand_of_known hop hused]
  refine ⟨decodeOperands_of_reservedRes, ?length, ?base, decodeOperands_of_legal⟩
  case length =>
    rintro rfl h
    exact ifLegal_of_illegal (fun hwf => absurd ((wellFormed_fbSetlen _).1 hwf) (by omega)) _
  case base =>
    rintro rfl h
    exact ifLegal_of_illegal (fun hwf => h ((wellFormed_cmbInit _).1 hwf)) _

/-- Settles O5, by running the decoder on each word. -/
theorem specWordsDecode : Obligations.SpecWordsDecode := ⟨rfl, rfl, rfl, rfl, rfl, rfl⟩

/-! ## Decoding an encoding -/

/-- The opcode stands below every operand field. -/
theorem extract_or_opcode (x : Word32) (op : Opcode) {k n : Nat} (hk : 8 ≤ k) :
    (x ||| op.code.setWidth 32).extractLsb' k n = x.extractLsb' k n := by
  have hzero : (op.code.setWidth 32).extractLsb' k n = 0#n := by
    simpa using extract_placed_disjoint op.code (j := 0) (k := k) (m := n) (.inl hk)
  rw [BitVec.extractLsb'_or, hzero, BitVec.or_zero]

theorem withRes_or_opcode (x : Word32) (op : Opcode) (mk : Resolution → Instr) :
    withRes (x ||| op.code.setWidth 32) mk = withRes x mk := by
  unfold withRes fieldRes
  rw [extract_or_opcode x op (by decide)]

theorem decodeOperands_or_opcode (op op' : Opcode) (x : Word32) :
    decodeOperands op (x ||| op'.code.setWidth 32) = decodeOperands op x := by
  cases op <;> simp (disch := decide) only [decodeOperands, fieldQty, fieldIdx, fieldByte, fieldLen, fieldBase,
    extract_or_opcode, withRes_or_opcode]

/-- What the operands of a command may occupy: its used bits, without the opcode's byte (30_encoding.md R71). -/
def Opcode.FitsOperands (op : Opcode) (x : Word32) : Prop := x.extractLsb' 0 8 = 0#8 ∧ x &&& ~~~op.usedBits = 0#32

theorem Opcode.fitsOperands_placed {op : Opcode} {k n : Nat} (hk : 8 ≤ k)
    (hbits : (~~~op.usedBits).extractLsb' k n = 0#n) (x : BitVec n) : op.FitsOperands (x.setWidth 32 <<< k) :=
  ⟨extract_placed_disjoint x (.inr (by omega)), by simp [placed_and, hbits]⟩

theorem Opcode.FitsOperands.or {op : Opcode} {x y : Word32} (hx : op.FitsOperands x) (hy : op.FitsOperands y) :
    op.FitsOperands (x ||| y) := by
  obtain ⟨hxlow, hxused⟩ := hx
  obtain ⟨hylow, hyused⟩ := hy
  constructor
  · rw [BitVec.extractLsb'_or, hxlow, hylow, BitVec.or_zero]
  · rw [BitVec.and_or_distrib_right, hxused, hyused, BitVec.or_zero]

theorem Opcode.code_unused (op : Opcode) : op.code.setWidth 32 &&& ~~~op.usedBits = 0#32 := by
  cases op <;> rfl

/-- The opcode of a command word does not disturb its operands. -/
theorem decode_commandWord {op : Opcode} {x : Word32} (h : op.FitsOperands x) :
    decode (commandWord op x) = decodeOperands op x := by
  obtain ⟨hlow, hused⟩ := h
  have hop : op.code = fieldOp (x ||| op.code.setWidth 32) := by
    have hcode : (op.code.setWidth 32).extractLsb' 0 8 = op.code := by
      simpa using extract_placed_same op.code (k := 0) (by decide)
    rw [fieldOp, BitVec.extractLsb'_or, hlow, hcode, BitVec.zero_or]
  have hunused : (x ||| op.code.setWidth 32) &&& ~~~op.usedBits = 0#32 := by
    rw [BitVec.and_or_distrib_right, hused, op.code_unused, BitVec.or_zero]
  calc decode (commandWord op x) = decodeOperands op (x ||| op.code.setWidth 32) := decodeCommand_of_known hop hunused
    _ = decodeOperands op x := decodeOperands_or_opcode op op x

/-! ### The fields of an encoding's operands -/

theorem withRes_placeRes (r : Resolution) (mk : Resolution → Instr) : withRes (placeRes r) mk = .ok (mk r) :=
  withRes_of_code (extract_placed_same r.code (by decide)) mk

theorem withRes_placeQty_or_placeRes (r : Resolution) (q : Quantity) (mk : Resolution → Instr) :
    withRes (placeQty q ||| placeRes r) mk = .ok (mk r) := by
  refine withRes_of_code ?_ mk
  rw [fieldRes, BitVec.extractLsb'_or, placeQty, placeRes, extract_placed_disjoint _ (by decide),
    extract_placed_same _ (by decide), BitVec.zero_or]

theorem fieldQty_placeQty_or_placeRes (r : Resolution) (q : Quantity) :
    fieldQty (placeQty q ||| placeRes r) = q.code := by
  rw [fieldQty, BitVec.extractLsb'_or, placeQty, placeRes, extract_placed_disjoint r.code (by decide),
    extract_placed_same _ (by decide), BitVec.or_zero]

theorem fieldIdx_placed_byte_or_idx (idx : BitVec 6) (byte : Byte) :
    fieldIdx (byte.setWidth 32 <<< 24 ||| idx.setWidth 32 <<< 16) = idx := by
  rw [fieldIdx, BitVec.extractLsb'_or, extract_placed_disjoint _ (by decide), extract_placed_same _ (by decide),
    BitVec.zero_or]

theorem fieldByte_placed_byte_or_idx (idx : BitVec 6) (byte : Byte) :
    fieldByte (byte.setWidth 32 <<< 24 ||| idx.setWidth 32 <<< 16) = byte := by
  rw [fieldByte, BitVec.extractLsb'_or, extract_placed_disjoint idx (by decide), extract_placed_same _ (by decide),
    BitVec.or_zero]

/-- A command with RES alone. -/
theorem decode_res {op : Opcode} (hbits : (~~~op.usedBits).extractLsb' 8 3 = 0#3) (r : Resolution) :
    decode (commandWord op (placeRes r)) = decodeOperands op (placeRes r) :=
  decode_commandWord (Opcode.fitsOperands_placed (by decide) hbits _)

/-- A command with QTY and RES. -/
theorem decode_qty_res {op : Opcode} (hqty : (~~~op.usedBits).extractLsb' 11 3 = 0#3)
    (hres : (~~~op.usedBits).extractLsb' 8 3 = 0#3) (r : Resolution) (q : Quantity) :
    decode (commandWord op (placeQty q ||| placeRes r)) = decodeOperands op (placeQty q ||| placeRes r) :=
  decode_commandWord
    ((Opcode.fitsOperands_placed (by decide) hqty _).or (Opcode.fitsOperands_placed (by decide) hres _))

/-- Settles O1: a command word has its fields at their own places and nothing else, and the wire bytes are the rows of
O3. -/
theorem decodeOfEncode : Obligations.DecodeOfEncode := by
  intro i hwf
  cases i with
  | reset | fbClear | cmbStep | cmbEnd | prsInit | prsNext => rfl
  | fbPut idx byte =>
    have hfits : Opcode.fbPut.FitsOperands (byte.setWidth 32 <<< 24 ||| idx.setWidth 32 <<< 16) :=
      (Opcode.fitsOperands_placed (by decide) rfl byte).or (Opcode.fitsOperands_placed (by decide) rfl idx)
    rw [encode, decode_commandWord hfits, decodeOperands, fieldIdx_placed_byte_or_idx, fieldByte_placed_byte_or_idx]
  | fbGet idx =>
    rw [encode, decode_commandWord (Opcode.fitsOperands_placed (by decide) rfl idx), decodeOperands, fieldIdx,
      extract_placed_same idx (by decide)]
  | fbSetlen len =>
    rw [encode, decode_commandWord (Opcode.fitsOperands_placed (by decide) rfl len), decodeOperands, fieldLen,
      extract_placed_same len (by decide), ifLegal_of_wellFormed hwf]
  | cmbInit base =>
    rw [encode, decode_commandWord (Opcode.fitsOperands_placed (by decide) rfl base), decodeOperands, fieldBase,
      extract_placed_same base (by decide), ifLegal_of_wellFormed hwf]
  | fbAppendRaw res | cmbDecl res => rw [encode, decode_res rfl, decodeOperands, withRes_placeRes]
  | fbAppendQ res qty | qQuant res qty | qDequant res qty =>
    rw [encode, decode_qty_res rfl rfl, decodeOperands, withRes_placeQty_or_placeRes, fieldQty_placeQty_or_placeRes,
      Quantity.ofCode_code]
  | muxWrite rc c | muxRead rc c | muxReply rc c => simp only [encode, wireByte, decode, wireByteFamilies.1 rc c]
  | muxError low | tunnel low | nop low | unassigned6 low | unassigned7 low | unassigned8 low | unassigned9 low
  | unassignedA low | unassignedB low | unassignedC low | unassignedD low | unassignedE low | unassignedF low =>
    simp only [encode, wireByte, decode, wireByteFamilies.2 low]

/-! ## Encoding what was decoded -/

/-- A word whose used bits are its opcode's byte and the bits of `x` is the command word of that opcode and `x`. -/
theorem commandWord_of_used {op : Opcode} {w x mask : Word32} (hop : op.code = fieldOp w)
    (hused : w &&& ~~~op.usedBits = 0#32) (hx : x = w &&& mask) (hmask : mask ||| fieldMask 0 8 = op.usedBits) :
    commandWord op x = .command w := by
  have hcode : op.code.setWidth 32 = w &&& fieldMask 0 8 := by
    rw [hop, fieldOp, ← placed_extract, BitVec.shiftLeft_zero]
  rw [commandWord, hx, hcode, ← BitVec.and_or_distrib_left, hmask, and_mask_of_unused hused]

theorem placeRes_eq {w : Word32} {r : Resolution} (h : r.code = fieldRes w) : placeRes r = w &&& fieldMask 8 3 := by
  rw [placeRes, h, fieldRes, placed_extract]

theorem placeQty_or_placeRes_eq {w : Word32} {r : Resolution} (h : r.code = fieldRes w) :
    placeQty (Quantity.ofCode (fieldQty w)) ||| placeRes r = w &&& (fieldMask 11 3 ||| fieldMask 8 3) := by
  rw [placeQty, Quantity.code_ofCode, fieldQty, placed_extract, placeRes_eq h, BitVec.and_or_distrib_left]

/-- What decodes from a word with opcode `op` and no unused bit encodes to that word. -/
theorem encode_of_decodeOperands {op : Opcode} {w : Word32} {i : Instr} (hop : op.code = fieldOp w)
    (hused : w &&& ~~~op.usedBits = 0#32) (h : decodeOperands op w = .ok i) :
    i.WellFormed ∧ encode i = .command w := by
  cases op with
  | reset | fbClear | cmbStep | cmbEnd | prsInit | prsNext =>
    cases h
    exact ⟨rfl, commandWord_of_used hop hused (BitVec.and_zero).symm rfl⟩
  | fbPut =>
    cases h
    refine ⟨rfl, commandWord_of_used hop hused (mask := fieldMask 24 8 ||| fieldMask 16 6) ?_ rfl⟩
    rw [fieldByte, fieldIdx, placed_extract, placed_extract, BitVec.and_or_distrib_left]
  | fbGet =>
    cases h
    exact ⟨rfl, commandWord_of_used hop hused (placed_extract w 16 6) rfl⟩
  | fbSetlen =>
    obtain ⟨hwf, rfl⟩ := ifLegal_eq_ok h
    exact ⟨hwf, commandWord_of_used hop hused (placed_extract w 16 7) rfl⟩
  | cmbInit =>
    obtain ⟨hwf, rfl⟩ := ifLegal_eq_ok h
    exact ⟨hwf, commandWord_of_used hop hused (placed_extract w 16 8) rfl⟩
  | fbAppendRaw | cmbDecl =>
    obtain ⟨r, hr, rfl⟩ := withRes_eq_ok h
    exact ⟨rfl, commandWord_of_used hop hused (placeRes_eq hr) rfl⟩
  | fbAppendQ | qQuant | qDequant =>
    obtain ⟨r, hr, rfl⟩ := withRes_eq_ok h
    exact ⟨rfl, commandWord_of_used hop hused (placeQty_or_placeRes_eq hr) rfl⟩

/-- Settles O2: the fields put back where they were read are the word under the bits its command uses, which is the
whole word. -/
theorem legalWordIsItsEncoding : Obligations.LegalWordIsItsEncoding := by
  intro w i h
  obtain ⟨op, hop, hused, hoperands⟩ := decodeCommand_eq_ok h
  exact encode_of_decodeOperands hop hused hoperands

end Sys2Proof
end

section
/-! An illegal word's step (30_encoding.md R73), and LOADFRAME (R94): FB_CLEAR, one FB_PUT per byte, FB_SETLEN. -/

namespace Sys2Proof.Machine

/-- Settles O7: the word is run in the state that holds its DIN, and an illegal one only raises. -/
theorem illegalWordRaises : Obligations.IllegalWordRaises := by
  intro s w d rest why hq hf hw
  calc step s = runCommand w { s.withQueue rest with din := d } := step_of_queue_cons hq
    _ = .next (State.raised { s.withQueue rest with din := d } .illegalCommand) := runCommand_of_illegal hf hw

/-! ## Serving an assembled command -/

/-- A command is an instruction that encodes to a command word. -/
theorem exists_word_of_isCommand {i : Instr} (hi : isCommand i = true) : ∃ w, encode i = .command w := by
  cases he : encode i with
  | command w => exact ⟨w, rfl⟩
  | wire b =>
    rw [isCommand, he] at hi
    exact absurd hi Bool.false_ne_true

theorem encodeCommand_of_encode {i : Instr} {w : Word32} (h : encode i = .command w) : encodeCommand i = w := by
  simp only [encodeCommand, h]

theorem decodeCommand_encodeCommand {i : Instr} (hwf : i.WellFormed) (hi : isCommand i = true) :
    decodeCommand (encodeCommand i) = .ok i := by
  obtain ⟨w, hw⟩ := exists_word_of_isCommand hi
  calc decodeCommand (encodeCommand i) = decode (encode i) := by rw [encodeCommand_of_encode hw, hw, decode]
    _ = .ok i := decodeOfEncode i hwf

theorem serve_issue_encodeCommand {i : Instr} {s : State} (hwf : i.WellFormed) (hi : isCommand i = true)
    (hf : s.fault = false) (d : Word64) :
    serve (.issue (encodeCommand i) d) s = exec i { s with din := d } :=
  runCommand_of_decoded hf (decodeCommand_encodeCommand hwf hi)

theorem serveAll_cons {t : Transaction} {s u : State} (h : serve t s = .next u) (ts : List Transaction) :
    serveAll (t :: ts) s = serveAll ts u := by
  simp only [serveAll, h]

theorem serveAll_append : ∀ {ts : List Transaction} {s u : State}, serveAll ts s = .next u →
    ∀ us, serveAll (ts ++ us) s = serveAll us u
  | [], s, u, h, us => by
    cases h
    rfl
  | t :: ts, s, u, h, us => by
    rw [serveAll] at h
    split at h
    · next v hv => rw [List.cons_append, serveAll_cons hv, serveAll_append h us]
    · cases h
    · cases h

/-! ## LOADFRAME -/

/-- What LOADFRAME's FB_CLEAR leaves (42_frame_writer.md R121). -/
def State.cleared (s : State) (d : Word64) : State := { s with din := d, flen := 0#7, rcur := 0#7, pstate := .idle }

theorem serve_fbClear {s : State} (hf : s.fault = false) (d : Word64) :
    serve (.issue (encodeCommand .fbClear) d) s = .next (s.cleared d) := by
  rw [serve_issue_encodeCommand rfl rfl hf]
  exact unlessFaulted_of_running (s := { s with din := d }) hf _

theorem serve_fbPut {s : State} (hf : s.fault = false) (hl : s.parserLive = false) (idx : BitVec 6) (b : Byte) :
    serve (.issue (encodeCommand (.fbPut idx b)) s.din) s = .next (s.writeByte idx.toNat b) := by
  rw [serve_issue_encodeCommand rfl rfl hf]
  exact (unlessFaulted_of_running hf _).trans (guardMutation_of_idle hl _)

theorem serve_fbSetlen {s : State} {len : BitVec 7} (hf : s.fault = false) (hl : s.parserLive = false)
    (hlen : len.toNat ≤ 64) :
    serve (.issue (encodeCommand (.fbSetlen len)) s.din) s = .next { s with flen := len } := by
  rw [serve_issue_encodeCommand ((wellFormed_fbSetlen len).2 hlen) rfl hf]
  calc execFbSetlen len s = _ := unlessFaulted_of_running hf _
    _ = guardMutation s (.next { s with flen := len }) := if_neg (Nat.not_lt.2 hlen)
    _ = .next { s with flen := len } := guardMutation_of_idle hl _

/-- The FB_PUTs of LOADFRAME store their bytes at consecutive indices and change nothing else. -/
theorem serveAll_putLines : ∀ {bs : List Byte} {s : State} {a : Nat}, s.fault = false → s.parserLive = false →
    a + bs.length ≤ 64 → serveAll (putLines s.din a bs) s = .next { s with fb := s.fb.writeBytes a bs }
  | [], _, _, _, _, _ => rfl
  | b :: bs, s, a, hf, hl, hfit => by
    rw [List.length_cons] at hfit
    have hidx : (BitVec.ofNat 6 a).toNat = a := by
      rw [BitVec.toNat_ofNat]
      omega
    have hput : serve (.issue (encodeCommand (.fbPut (BitVec.ofNat 6 a) b)) s.din) s = .next (s.writeByte a b) := by
      rw [serve_fbPut hf hl, hidx]
    calc serveAll (putLines s.din a (b :: bs)) s
        = serveAll (putLines s.din (a + 1) bs) (s.writeByte a b) := serveAll_cons hput _
      _ = .next { s.writeByte a b with fb := (s.writeByte a b).fb.writeBytes (a + 1) bs } :=
        serveAll_putLines (s := s.writeByte a b) hf hl (by omega)

/-- What LOADFRAME leaves (30_encoding.md R94). -/
def State.loaded (s : State) (d : Word64) (bs : List Byte) : State :=
  { s.cleared d with fb := s.fb.writeBytes 0 bs, flen := BitVec.ofNat 7 bs.length }

theorem serveAll_loadFrame {s : State} {bs : List Byte} (hf : s.fault = false) (hfit : bs.length ≤ 64) (d : Word64) :
    serveAll (loadFrame d bs) s = .next (s.loaded d bs) := by
  have hputs : serveAll (putLines d 0 bs) (s.cleared d) = .next { s.cleared d with fb := s.fb.writeBytes 0 bs } :=
    serveAll_putLines (s := s.cleared d) hf rfl (by omega)
  have hlen : (BitVec.ofNat 7 bs.length).toNat ≤ 64 := by
    rw [BitVec.toNat_ofNat]
    omega
  rw [loadFrame, serveAll_cons (serve_fbClear hf d), serveAll_append hputs]
  exact serveAll_cons (serve_fbSetlen (s := { s.cleared d with fb := s.fb.writeBytes 0 bs }) hf rfl hlen) []

theorem State.readByte_loaded {s : State} {bs : List Byte} (hwf : s.fb.wf = true) (hfit : bs.length ≤ 64) (d : Word64)
    (a : Nat) : (s.loaded d bs).readByte a = if h : a < bs.length then bs[a] else s.readByte a := by
  have hread := Memory.read_writeBytes (bs := bs) (a := 0) (by rwa [Nat.zero_add]) hwf a
  simp only [Nat.zero_le, Nat.zero_add, Nat.sub_zero, true_and] at hread
  exact hread

/-- Settles O60: LOADFRAME leaves `State.loaded`. -/
theorem loadFrameLoadsBytes : Obligations.LoadFrameLoadsBytes := by
  intro s d bs hf hwf hfit
  refine ⟨s.loaded d bs, serveAll_loadFrame hf hfit d, rfl, ?length, fun k hk => ?inside, fun a ha => ?outside⟩
  case length => exact Nat.mod_eq_of_lt (by omega)
  case inside => rw [State.readByte_loaded hwf hfit, dif_pos hk]
  case outside => rw [State.readByte_loaded hwf hfit, dif_neg (by omega)]

end Sys2Proof.Machine
end

section
/-! Exact values and binary32 (41_quantizer.md R103 to R105, R111): a value that a format has room for is rounded to
itself, and a pattern that is no NaN is the only one of its value. -/

namespace Sys2Proof.Machine

/-! ## Rounding a value that the format has room for -/

theorem Finite.num_div_den (x : Finite) : (x.num / x.den : ℚ) = x.mant * (2 : ℚ) ^ x.exp := by
  have hden : (powDen x.exp : ℚ) ≠ 0 := by exact_mod_cast x.den_ne_zero
  rw [Finite.num, Finite.den, Nat.cast_mul, powNum_eq, ← mul_assoc, mul_div_cancel_right₀ _ hden]

theorem Finite.abs_toRat (x : Finite) : |x.toRat| = x.mant * (2 : ℚ) ^ x.exp := by
  rw [x.toRat_eq, abs_signFactor_mul, abs_of_nonneg (by positivity)]

/-- The significand of a value of the format, at its place, is the value. -/
theorem FloatFormat.significand_of_represents {f : FloatFormat} {x : Finite} (hx : f.Represents x) (hn : x.num ≠ 0) :
    (f.significand x.num x.den : ℚ) * (2 : ℚ) ^ (f.minExp + f.placeIndex x.num x.den) = x.mant * (2 : ℚ) ^ x.exp := by
  have hscaled : ((1 : ℤ) : ℚ) * (x.mant * (2 : ℚ) ^ x.exp) / (2 : ℚ) ^ f.lastPlace x.num x.den
      = f.scaled x.num x.den := by
    rw [Int.cast_one, one_mul, FloatFormat.scaled, x.num_div_den]
  obtain ⟨hle, -⟩ := f.significand_nearest hn x.den_ne_zero
    (hscaled ▸ FloatFormat.represents_scaled hx x.num x.den le_rfl)
  rw [sub_self, abs_zero] at hle
  have heq : f.scaled x.num x.den = f.significand x.num x.den := sub_eq_zero.1 (abs_nonpos_iff.1 hle)
  rw [← heq, f.scaled_mul, x.num_div_den]

/-- A value of the format below the overflow limit is rounded to a pattern of the same sign and value. -/
theorem FloatFormat.unpack_roundMagnitude_of_represents {f : FloatFormat} (hF : 1 ≤ f.fracBits) (hE : 2 ≤ f.expOnes)
    {x : Finite} (hx : f.Represents x) (hlim : |x.toRat| < f.overflowLimit) :
    ∃ y, f.unpack x.neg (f.roundMagnitude x.num x.den / 2 ^ f.fracBits) (f.roundMagnitude x.num x.den % 2 ^ f.fracBits)
        = .finite y ∧ y.neg = x.neg ∧ y.toRat = x.toRat := by
  rcases eq_or_ne x.mant 0 with hzero | hmant
  · have hnum : x.num = 0 := by rw [Finite.num, hzero, Nat.zero_mul]
    rw [hnum, FloatFormat.roundMagnitude, if_pos rfl, Nat.zero_div, Nat.zero_mod, f.unpack_subnormal x.neg 0 (by omega)]
    exact ⟨_, rfl, rfl, by simp [Finite.toRat, hzero]⟩
  · have hn := Finite.num_ne_zero hmant
    have hfits : f.placeIndex x.num x.den * 2 ^ f.fracBits + f.significand x.num x.den < f.expOnes * 2 ^ f.fracBits := by
      rwa [← not_le, f.overflow_iff hE hn x.den_ne_zero, not_le, x.num_div_den, ← x.abs_toRat]
    rw [f.roundMagnitude_eq hn, min_eq_left hfits.le]
    obtain ⟨y, hunpack, hneg, hval, -⟩ := f.unpack_place hF x.neg (f.significand_le hn x.den_ne_zero)
      (f.le_significand hn x.den_ne_zero) hfits
    refine ⟨y, hunpack, hneg, ?_⟩
    rw [y.toRat_eq, hneg, hval, f.significand_of_represents hx hn, ← x.toRat_eq]

/-! ## The finite values of a format -/

theorem FloatFormat.unpack_nan (f : FloatFormat) (neg : Bool) {frac : Nat} (h : frac ≠ 0) :
    f.unpack neg f.expOnes frac = .nan := by
  rw [FloatFormat.unpack, if_pos rfl, if_neg h]

theorem FloatFormat.unpack_eq_inf {f : FloatFormat} {neg sign : Bool} {biased frac : Nat}
    (h : f.unpack neg biased frac = .inf sign) : neg = sign ∧ biased = f.expOnes ∧ frac = 0 := by
  unfold FloatFormat.unpack at h
  split at h
  · next hbiased =>
    split at h
    · next hfrac => exact ⟨FloatValue.inf.inj h, hbiased, hfrac⟩
    · cases h
  · split at h <;> cases h

/-- A finite pattern is a subnormal one or a normal one. -/
theorem FloatFormat.unpack_eq_finite {f : FloatFormat} {neg : Bool} {biased frac : Nat} {z : Finite}
    (h : f.unpack neg biased frac = .finite z) :
    biased ≠ f.expOnes ∧ (biased = 0 ∧ z = ⟨neg, frac, f.minExp⟩
      ∨ ∃ b, biased = b + 1 ∧ z = ⟨neg, 2 ^ f.fracBits + frac, f.minExp + b⟩) := by
  unfold FloatFormat.unpack at h
  split at h
  · split at h <;> cases h
  · next hbiased =>
    split at h
    · next hzero => exact ⟨hbiased, .inl ⟨hzero, (FloatValue.finite.inj h).symm⟩⟩
    · next hpos =>
      exact ⟨hbiased, .inr ⟨biased - 1, (Nat.sub_one_add_one hpos).symm, (FloatValue.finite.inj h).symm⟩⟩

/-- The exponent of the value is the subnormals', or its significand has the leading bit of a normal one. -/
def FloatFormat.Normalized (f : FloatFormat) (z : Finite) : Prop := f.minExp < z.exp → 2 ^ f.fracBits ≤ z.mant

theorem FloatFormat.normalized_of_unpack {f : FloatFormat} {neg : Bool} {biased frac : Nat} {z : Finite}
    (h : f.unpack neg biased frac = .finite z) : f.Normalized z := by
  obtain ⟨-, ⟨-, rfl⟩ | ⟨b, -, rfl⟩⟩ := f.unpack_eq_finite h
  · exact fun hlt => absurd hlt (lt_irrefl _)
  · exact fun _ => Nat.le_add_right _ _

/-- Of two values of the format, the one with the higher exponent is larger. -/
theorem FloatFormat.value_lt_of_exp_lt {f : FloatFormat} {x y : Finite} (hx : f.Represents x) (hy : f.Normalized y)
    (hlt : x.exp < y.exp) : (x.mant * (2 : ℚ) ^ x.exp) < y.mant * (2 : ℚ) ^ y.exp := by
  have hxm : (x.mant : ℚ) < 2 ^ (f.fracBits + 1) := by exact_mod_cast hx.1
  have hym : (2 ^ f.fracBits : ℚ) ≤ y.mant := by exact_mod_cast hy (hx.2.trans_lt hlt)
  calc x.mant * (2 : ℚ) ^ x.exp < 2 ^ (f.fracBits + 1) * (2 : ℚ) ^ x.exp := mul_lt_mul_of_pos_right hxm (by positivity)
    _ = 2 ^ f.fracBits * (2 : ℚ) ^ (x.exp + 1) := by
        rw [zpow_add_one₀ two_ne_zero]
        ring
    _ ≤ 2 ^ f.fracBits * (2 : ℚ) ^ y.exp :=
        mul_le_mul_of_nonneg_left (zpow_le_zpow_right₀ one_le_two hlt) (by positivity)
    _ ≤ y.mant * (2 : ℚ) ^ y.exp := mul_le_mul_of_nonneg_right hym (by positivity)

/-- A sign and a value are one finite value of the format only. -/
theorem FloatFormat.eq_of_toRat_eq {f : FloatFormat} {x y : Finite} (hx : f.Represents x) (hy : f.Represents y)
    (hnx : f.Normalized x) (hny : f.Normalized y) (hneg : x.neg = y.neg) (hval : x.toRat = y.toRat) : x = y := by
  have hmag : x.mant * (2 : ℚ) ^ x.exp = y.mant * (2 : ℚ) ^ y.exp := by rw [← x.abs_toRat, ← y.abs_toRat, hval]
  have hexp : x.exp = y.exp := by
    rcases lt_trichotomy x.exp y.exp with hlt | heq | hgt
    · exact absurd hmag (f.value_lt_of_exp_lt hx hny hlt).ne
    · exact heq
    · exact absurd hmag (f.value_lt_of_exp_lt hy hnx hgt).ne'
  have hmant : x.mant = y.mant := by
    rw [hexp] at hmag
    exact_mod_cast mul_right_cancel₀ (by positivity) hmag
  cases x
  cases y
  simp_all

/-- The largest finite value is below the overflow limit. -/
theorem FloatFormat.abs_toRat_lt_overflowLimit {f : FloatFormat} {neg : Bool} {biased frac : Nat} {z : Finite}
    (hfrac : frac < 2 ^ f.fracBits) (hE : 2 ≤ f.expOnes) (hbiased : biased ≤ f.expOnes)
    (h : f.unpack neg biased frac = .finite z) : |z.toRat| < f.overflowLimit := by
  have hmant : (z.mant + 1 : ℚ) ≤ 2 ^ (f.fracBits + 1) := by exact_mod_cast (f.represents_of_unpack hfrac h).1
  have hexp : z.exp ≤ f.minExp + ((f.expOnes - 2 : Nat) : Int) := by
    obtain ⟨hne, ⟨-, rfl⟩ | ⟨b, rfl, rfl⟩⟩ := f.unpack_eq_finite h <;> simp only <;> omega
  rw [z.abs_toRat, FloatFormat.overflowLimit]
  calc z.mant * (2 : ℚ) ^ z.exp ≤ z.mant * (2 : ℚ) ^ (f.minExp + ((f.expOnes - 2 : Nat) : Int)) :=
        mul_le_mul_of_nonneg_left (zpow_le_zpow_right₀ one_le_two hexp) (by positivity)
    _ < (2 ^ (f.fracBits + 1) - 1 / 2) * (2 : ℚ) ^ (f.minExp + ((f.expOnes - 2 : Nat) : Int)) :=
        mul_lt_mul_of_pos_right (by linarith) (by positivity)

/-- The sign, the biased exponent and the fraction of a pattern that is no NaN are determined by what it stands for. -/
theorem FloatFormat.fields_eq_of_unpack_eq {f : FloatFormat} {neg neg' : Bool} {biased biased' frac frac' : Nat}
    (hfrac : frac < 2 ^ f.fracBits) (hfrac' : frac' < 2 ^ f.fracBits)
    (h : f.unpack neg biased frac = f.unpack neg' biased' frac') (hnan : f.unpack neg biased frac ≠ .nan) :
    neg = neg' ∧ biased = biased' ∧ frac = frac' := by
  cases hv : f.unpack neg biased frac with
  | nan => exact absurd hv hnan
  | inf sign =>
    obtain ⟨rfl, rfl, rfl⟩ := f.unpack_eq_inf hv
    obtain ⟨rfl, rfl, rfl⟩ := f.unpack_eq_inf (h ▸ hv)
    exact ⟨rfl, rfl, rfl⟩
  | finite z =>
    obtain ⟨-, hz⟩ := f.unpack_eq_finite hv
    obtain ⟨-, hz'⟩ := f.unpack_eq_finite (h ▸ hv)
    rcases hz with ⟨hb, rfl⟩ | ⟨b, hb, rfl⟩ <;> rcases hz' with ⟨hb', heq⟩ | ⟨b', hb', heq⟩
      <;> obtain ⟨hneg, hmant, hexp⟩ := Finite.mk.inj heq
    case inl.inl => exact ⟨hneg, hb.trans hb'.symm, hmant⟩
    case inl.inr => omega
    case inr.inl => omega
    case inr.inr => exact ⟨hneg, by omega, by omega⟩

/-! ## Binary32 -/

theorem isNaN32_iff (x : Word32) : isNaN32 x = true ↔ unpack32 x = .nan := by
  unfold isNaN32
  split <;> simp_all

theorem binary32_represents_of_unpack32 (r : Word32) (z : Finite) (h : unpack32 r = .finite z) : binary32.Represents z :=
  FloatFormat.represents_of_unpack (BitVec.isLt _) h

theorem binary32_overflowLimit : binary32.overflowLimit = 2 ^ 128 * (1 - 1 / 2 ^ 25) := by
  have hplace : (2 : ℚ) ^ (binary32.minExp + ((binary32.expOnes - 2 : Nat) : Int)) = 2 ^ 104 := zpow_natCast 2 104
  rw [FloatFormat.overflowLimit, hplace]
  norm_num [binary32]

/-- Packing a sign and a magnitude rounded to binary32 rounds the signed fraction correctly. -/
theorem correctlyRounded32_pack32 (neg : Bool) (num : Nat) {den : Nat} (hd : den ≠ 0) :
    CorrectlyRounded32 (signFactor neg * (num / den)) neg (pack32 neg (binary32.roundMagnitude num den)) := by
  have hlt : binary32.roundMagnitude num den < 2 ^ 31 :=
    (binary32.roundMagnitude_le num den).trans_lt (by decide)
  rw [CorrectlyRounded32, ← binary32_overflowLimit]
  exact correctlyRounded_roundMagnitude (by decide) (by decide) binary32_represents_of_unpack32 neg num hd
    (unpack32_pack32 neg hlt)

theorem abs_toRat_lt_of_unpack32 {r : Word32} {z : Finite} (h : unpack32 r = .finite z) :
    |z.toRat| < binary32.overflowLimit :=
  FloatFormat.abs_toRat_lt_overflowLimit (BitVec.isLt _) (by decide) (Nat.lt_succ_iff.1 (BitVec.isLt _)) h

theorem word32_of_fields (x : Word32) : x.extractLsb' 31 1 ++ x.extractLsb' 23 8 ++ x.extractLsb' 0 23 = x := by
  rw [BitVec.extractLsb'_append_extractLsb'_eq_extractLsb' (by omega),
    BitVec.extractLsb'_append_extractLsb'_eq_extractLsb' (by omega)]
  exact BitVec.extractLsb'_eq_self

/-- A binary32 pattern that is no NaN is the only one of what it stands for. -/
theorem eq_of_unpack32_eq {a b : Word32} (h : unpack32 a = unpack32 b) (hnan : unpack32 a ≠ .nan) : a = b := by
  obtain ⟨hsign, hbiased, hfrac⟩ := FloatFormat.fields_eq_of_unpack_eq (BitVec.isLt _) (BitVec.isLt _) h hnan
  have hsign' : a.extractLsb' 31 1 = b.extractLsb' 31 1 := by
    ext i hi
    rwa [BitVec.getElem_extractLsb', BitVec.getElem_extractLsb', Nat.lt_one_iff.1 hi]
  rw [← word32_of_fields a, ← word32_of_fields b, hsign', BitVec.eq_of_toNat_eq hbiased, BitVec.eq_of_toNat_eq hfrac]

end Sys2Proof.Machine
end

section
/-! The quantizer (41_quantizer.md): what Q_QUANT and Q_DEQUANT write at each form of a resolution, the range of the
encoded integer, the rounding of the conversions and of the product, and the round trips. -/

namespace Sys2Proof.Machine

/-! ## The two commands -/

theorem exec_qQuant (res : Resolution) (qty : Quantity) (s : State) : exec (.qQuant res qty) s = execQQuant res qty s :=
  rfl

theorem exec_qDequant (res : Resolution) (qty : Quantity) (s : State) :
    exec (.qDequant res qty) s = execQDequant res qty s :=
  rfl

section
variable {s : State} (hf : s.fault = false) (qty : Quantity)
include hf

theorem exec_qQuant_ignore : exec (.qQuant .ignore qty) s = .next (s.raised .invalidResolution) := by
  rw [exec_qQuant, execQQuant, unlessFaulted_of_running hf]
  exact raise_of_running hf _

theorem exec_qDequant_ignore : exec (.qDequant .ignore qty) s = .next (s.raised .invalidResolution) := by
  rw [exec_qDequant, execQDequant, unlessFaulted_of_running hf]
  exact raise_of_running hf _

theorem exec_qQuant_float :
    exec (.qQuant .float qty) s = .next { s with dout := (quantizeFloat s.cfg s.din).setWidth 64 } :=
  unlessFaulted_of_running hf _

theorem exec_qDequant_float :
    exec (.qDequant .float qty) s = .next { s with dout := dequantizeFloat (dinFloat s) } :=
  unlessFaulted_of_running hf _

theorem exec_qQuant_integer {res : Resolution} {r : IntRes} (hr : valueForm res = .integer r) :
    exec (.qQuant res qty) s
      = .next { s with dout := intPattern r (quantizeInt s.din r (s.cfg.scale.entry qty r)) } := by
  rw [exec_qQuant, execQQuant, unlessFaulted_of_running hf, quantized?, hr]

theorem exec_qDequant_integer {res : Resolution} {r : IntRes} (hr : valueForm res = .integer r) :
    exec (.qDequant res qty) s
      = .next { s with dout := dequantizeInt s.cfg (dinInt r s) r (s.cfg.scale.entry qty r) } := by
  rw [exec_qDequant, execQDequant, unlessFaulted_of_running hf, hr]

end

theorem valueForm_of_mem {res : Resolution} {r : IntRes}
    (h : (res, r) ∈ [(Resolution.int8, IntRes.int8), (.int16, .int16), (.int32, .int32)]) :
    valueForm res = .integer r := by
  simp only [List.mem_cons, Prod.mk.injEq, List.not_mem_nil, or_false] at h
  obtain ⟨rfl, rfl⟩ | ⟨rfl, rfl⟩ | ⟨rfl, rfl⟩ := h <;> rfl

/-- Settles O28: both commands raise. -/
theorem quantizerRefusesIgnore : Obligations.QuantizerRefusesIgnore :=
  fun _ qty hf => ⟨exec_qQuant_ignore hf qty, exec_qDequant_ignore hf qty⟩

/-- A resolution with a payload is Float, or an integer one of that size (R23). -/
theorem valueForm_of_mem_payload {res : Resolution} {w : Nat}
    (h : (res, w) ∈ [(Resolution.int8, 1), (.int16, 2), (.int32, 4), (.float, 4)]) :
    (res = .float ∧ w = 4) ∨ ∃ r, valueForm res = .integer r ∧ w = intSize r := by
  simp only [List.mem_cons, Prod.mk.injEq, List.not_mem_nil, or_false] at h
  obtain ⟨rfl, rfl⟩ | ⟨rfl, rfl⟩ | ⟨rfl, rfl⟩ | hfloat := h
  · exact .inr ⟨.int8, rfl, rfl⟩
  · exact .inr ⟨.int16, rfl, rfl⟩
  · exact .inr ⟨.int32, rfl, rfl⟩
  · exact .inl hfloat

/-- Settles O31: Q_DEQUANT reads DIN through its payload only. -/
theorem dequantizeIgnoresUpperBits : Obligations.DequantizeIgnoresUpperBits := by
  intro s qty res w d hmem hf hd
  obtain ⟨rfl, rfl⟩ | ⟨r, hr, rfl⟩ := valueForm_of_mem_payload hmem
  · have hpayload : dinFloat { s with din := d } = dinFloat s := hd
    refine ⟨_, exec_qDequant_float hf qty, ?_⟩
    rw [exec_qDequant_float (s := { s with din := d }) hf qty, hpayload]
  · have hpayload : dinInt r { s with din := d } = dinInt r s := congrArg BitVec.toInt hd
    refine ⟨_, exec_qDequant_integer hf qty hr, ?_⟩
    rw [exec_qDequant_integer (s := { s with din := d }) hf qty hr, hpayload]

/-! ## Classes of binary64 values -/

theorem isNaN64_iff (x : Word64) : isNaN64 x = true ↔ unpack64 x = .nan := by
  unfold isNaN64
  split <;> simp_all

theorem isInf64_iff (x : Word64) : isInf64 x = true ↔ ∃ neg, unpack64 x = .inf neg := by
  unfold isInf64
  split <;> simp_all

theorem isFinite64_iff (x : Word64) : isFinite64 x = true ↔ ∃ v, unpack64 x = .finite v := by
  unfold isFinite64
  split <;> simp_all

theorem isFinite64_eq_false_iff (x : Word64) : isFinite64 x = false ↔ isNaN64 x = true ∨ isInf64 x = true := by
  rw [isNaN64_iff, isInf64_iff, ← Bool.not_eq_true, isFinite64_iff]
  cases unpack64 x <;> simp

/-- A scale stands for a positive value (R101). -/
theorem unpack64_scale (c : Config.Scale) :
    unpack64 c.bits = .finite (scaleValue c) ∧ (scaleValue c).neg = false ∧ (scaleValue c).mant ≠ 0 := by
  have hok := c.ok
  unfold isPositiveFinite64 at hok
  unfold scaleValue
  split at hok <;> simp_all

theorem scaleValue_eq {c : Config.Scale} {x : Finite} (h : unpack64 c.bits = .finite x) : scaleValue c = x :=
  FloatValue.finite.inj ((unpack64_scale c).1.symm.trans h)

/-! ## The encoded integer -/

theorem intMax_pos (r : IntRes) : 0 < intMax r := by
  cases r <;> decide

/-- Truncation toward zero stays within the bounds that the value stays within. -/
theorem Finite.trunc_bounds {x : Finite} {m : ℤ} (hm : 0 ≤ m) (hlow : -m * x.den ≤ x.signedNum)
    (hhigh : x.signedNum ≤ m * x.den) : -m ≤ x.trunc ∧ x.trunc ≤ m := by
  have hden : (0 : ℤ) < x.den := by exact_mod_cast Nat.pos_of_ne_zero x.den_ne_zero
  have hnonneg : (0 : ℤ) ≤ (x.num / x.den : Nat) := Int.natCast_nonneg _
  have hquot (h : (x.num : ℤ) ≤ m * x.den) : ((x.num / x.den : Nat) : ℤ) ≤ m := by
    rw [Int.natCast_ediv]
    exact Int.ediv_le_of_le_mul hden h
  unfold Finite.signedNum at hlow hhigh
  unfold Finite.trunc
  split at hlow
  · next hneg =>
    rw [if_pos hneg]
    have := hquot (by linarith)
    omega
  · next hpos =>
    rw [if_neg hpos] at hhigh ⊢
    have := hquot hhigh
    omega

/-- No value lies both below −MAX and above MAX. -/
theorem FloatValue.ltInt_of_gtInt {x : FloatValue} {r : IntRes} (h : x.gtInt (intMax r) = true) :
    x.ltInt (-intMax r) = false := by
  cases x with
  | nan => rfl
  | inf neg => simpa [FloatValue.gtInt, FloatValue.ltInt] using h
  | finite v =>
    have hden : (0 : ℤ) < v.den := by exact_mod_cast Nat.pos_of_ne_zero v.den_ne_zero
    have hbound := mul_pos (intMax_pos r) hden
    simp only [FloatValue.gtInt, FloatValue.ltInt, decide_eq_true_eq, decide_eq_false_iff_not] at h ⊢
    linarith

theorem clampTrunc_of_ltInt {r : IntRes} {x : FloatValue} (h : x.ltInt (-intMax r) = true) :
    clampTrunc r x = -intMax r :=
  if_pos h

theorem clampTrunc_of_gtInt {r : IntRes} {x : FloatValue} (h : x.gtInt (intMax r) = true) :
    clampTrunc r x = intMax r :=
  (if_neg (ne_true_of_eq_false (FloatValue.ltInt_of_gtInt h))).trans (if_pos h)

/-- Between the bounds stands a finite value, which is truncated. -/
theorem clampTrunc_of_within {r : IntRes} {x : FloatValue} (hnan : x ≠ .nan) (hlow : x.ltInt (-intMax r) = false)
    (hhigh : x.gtInt (intMax r) = false) : ∃ y, x = .finite y ∧ clampTrunc r x = y.trunc := by
  cases x with
  | nan => exact absurd rfl hnan
  | inf neg => cases neg <;> simp [FloatValue.ltInt, FloatValue.gtInt] at hlow hhigh
  | finite y => exact ⟨y, rfl, by rw [clampTrunc, hlow, hhigh]; rfl⟩

theorem clampTrunc_bounds {r : IntRes} {x : FloatValue} (hnan : x ≠ .nan) :
    -intMax r ≤ clampTrunc r x ∧ clampTrunc r x ≤ intMax r := by
  have hmax := intMax_pos r
  cases hlow : x.ltInt (-intMax r) with
  | true =>
    rw [clampTrunc_of_ltInt hlow]
    omega
  | false =>
    cases hhigh : x.gtInt (intMax r) with
    | true =>
      rw [clampTrunc_of_gtInt hhigh]
      omega
    | false =>
      obtain ⟨y, rfl, hk⟩ := clampTrunc_of_within hnan hlow hhigh
      rw [hk]
      exact Finite.trunc_bounds hmax.le (not_lt.1 (of_decide_eq_false hlow)) (not_lt.1 (of_decide_eq_false hhigh))

/-- The quotient of finite values is no NaN, the divisor not 0. -/
theorem unpack64_f64Div_ne_nan (a : Finite) {b : Finite} (hb : b.mant ≠ 0) : unpack64 (f64Div a b) ≠ .nan := by
  obtain ⟨hover, hfits⟩ := divisionIsCorrectlyRounded a b hb
  rcases le_or_gt (2 ^ 1024 * (1 - 1 / 2 ^ 54)) |a.toRat / b.toRat| with hle | hgt
  · rw [hover hle]
    exact FloatValue.noConfusion
  · obtain ⟨q, hq, -⟩ := hfits hgt
    rw [hq]
    exact FloatValue.noConfusion

theorem quantizeInt_of_not_finite {v : Word64} (h : isFinite64 v = false) (r : IntRes) (c : Config.Scale) :
    quantizeInt v r c = intMin r := by
  rw [isFinite64_eq_false_iff, isNaN64_iff, isInf64_iff] at h
  obtain hnan | ⟨neg, hinf⟩ := h
  · rw [quantizeInt, hnan]
  · rw [quantizeInt, hinf]

theorem quantizeInt_of_finite {v : Word64} {x : Finite} (h : unpack64 v = .finite x) (r : IntRes) (c : Config.Scale) :
    quantizeInt v r c = clampTrunc r (unpack64 (f64Div x (scaleValue c))) := by
  rw [quantizeInt, h]

/-- Settles O29: the clamp keeps every finite value within ±MAX. -/
theorem sentinelOnlyForNonFinite : Obligations.SentinelOnlyForNonFinite := by
  intro v r c
  refine ⟨fun hv => quantizeInt_of_not_finite hv r c, fun hv => ?_⟩
  obtain ⟨x, hx⟩ := (isFinite64_iff v).1 hv
  obtain ⟨-, -, hscale⟩ := unpack64_scale c
  rw [quantizeInt_of_finite hx]
  exact clampTrunc_bounds (unpack64_f64Div_ne_nan x hscale)

/-- Settles O25: the integer is `quantizeInt`'s, by the cases of the clamp. -/
theorem quantizeInteger : Obligations.QuantizeInteger := by
  intro s qty res r hmem hf
  refine ⟨_, exec_qQuant_integer hf qty (valueForm_of_mem hmem), fun hv => ?_, fun v hv c hc => ?_⟩
  · exact quantizeInt_of_not_finite ((isFinite64_eq_false_iff _).2 hv) r _
  · obtain ⟨-, -, hscale⟩ := unpack64_scale (s.cfg.scale.entry qty r)
    rw [scaleValue_eq hc] at hscale
    rw [quantizeInt_of_finite hv, scaleValue_eq hc]
    exact ⟨clampTrunc_of_ltInt, clampTrunc_of_gtInt, clampTrunc_of_within (unpack64_f64Div_ne_nan v hscale)⟩

/-! ## The sentinel's round trip -/

/-- The sentinel in DOUT is read back from DIN (R112). -/
theorem toInt_intPattern_intMin (r : IntRes) : ((intPattern r (intMin r)).setWidth (8 * intSize r)).toInt = intMin r := by
  cases r <;> decide

theorem dequantizeInt_intMin (p : Config.Params) (r : IntRes) (c : Config.Scale) :
    dequantizeInt p (intMin r) r c = p.nanF64.bits :=
  if_pos rfl

theorem valueForm_of_mem_integer {res : Resolution} (h : res ∈ [Resolution.int8, .int16, .int32]) :
    ∃ r, valueForm res = .integer r := by
  simp only [List.mem_cons, List.not_mem_nil, or_false] at h
  obtain rfl | rfl | rfl := h <;> exact ⟨_, rfl⟩

/-- Settles O30: DOUT is the sentinel's pattern, which Q_DEQUANT reads back and answers with NAN_F64. -/
theorem sentinelRoundTrip : Obligations.SentinelRoundTrip := by
  intro s q qty res hmem hf hv hq
  obtain ⟨r, hr⟩ := valueForm_of_mem_integer hmem
  rw [exec_qQuant_integer hf qty hr, quantizeInt_of_not_finite hv] at hq
  have hstate := Host.Outcome.next.inj hq
  have hq_fault : q.fault = false := hstate ▸ hf
  have hread : dinInt r { q with din := q.dout } = intMin r := hstate ▸ toInt_intPattern_intMin r
  refine ⟨_, exec_qDequant_integer (s := { q with din := q.dout }) hq_fault qty hr, ?_⟩
  rw [hread, dequantizeInt_intMin]
  exact q.cfg.nanF64.ok

/-! ## Narrowing to binary32 -/

theorem isNaN32_narrowNaN (v : Word64) : isNaN32 (narrowNaN v) = true := by
  have hbiased : (narrowNaN v).extractLsb' 23 8 = 0xFF#8 := by
    ext i hi
    simp only [narrowNaN, BitVec.getElem_extractLsb', BitVec.getLsbD_append]
    grind
  have hquiet : ((narrowNaN v).extractLsb' 0 23).getLsbD 22 = true := by
    simp only [narrowNaN, BitVec.getLsbD_extractLsb', BitVec.getLsbD_append]
    rfl
  have hfrac : ((narrowNaN v).extractLsb' 0 23).toNat ≠ 0 := fun hzero => by
    rw [BitVec.eq_of_toNat_eq (y := 0#23) hzero] at hquiet
    cases hquiet
  rw [isNaN32_iff, unpack32, hbiased]
  exact FloatFormat.unpack_nan binary32 _ hfrac

theorem isNaN32_apply (n : Config.NanNarrow) (v : Word64) : isNaN32 (n.apply v) = true := by
  cases n with
  | keepPayload => exact isNaN32_narrowNaN v
  | implementation =>
    change isNaN32 (Config.implementationNarrow v) = true
    unfold Config.implementationNarrow
    split
    · assumption
    · exact isNaN32_narrowNaN v

theorem f64ToF32_nan {v : Word64} (h : unpack64 v = .nan) (n : Word64 → Word32) : f64ToF32 n v = n v := by
  rw [f64ToF32, h]

theorem f64ToF32_inf {v : Word64} {neg : Bool} (h : unpack64 v = .inf neg) (n : Word64 → Word32) :
    f64ToF32 n v = pack32 neg 0x7F800000 := by
  rw [f64ToF32, h]

theorem f64ToF32_finite {v : Word64} {x : Finite} (h : unpack64 v = .finite x) (n : Word64 → Word32) :
    CorrectlyRounded32 x.toRat x.neg (f64ToF32 n v) := by
  rw [f64ToF32, h, x.toRat_eq_div]
  exact correctlyRounded32_pack32 x.neg x.num x.den_ne_zero

/-- Settles O26: the three kinds of operands of `f64ToF32`. (`quantizeFloat` is the model's function.) -/
theorem quantizeFloatCommand : Obligations.QuantizeFloat := by
  intro s qty hf
  refine ⟨_, exec_qQuant_float hf qty, fun hnan => ?_, fun hinf => ?_, fun hinf => ?_, fun v hv => ?_⟩
  · rw [quantizeFloat, f64ToF32_nan ((isNaN64_iff _).1 hnan)]
    exact ⟨rfl, isNaN32_apply _ _, fun hkeep => by rw [hkeep]; rfl⟩
  · rw [quantizeFloat, f64ToF32_inf hinf]
    rfl
  · rw [quantizeFloat, f64ToF32_inf hinf]
    rfl
  · exact f64ToF32_finite hv _

/-! ## Widening to binary64 -/

theorem f32ToF64_nan {f : Word32} (h : unpack32 f = .nan) :
    f32ToF64 f = f.extractLsb' 31 1 ++ 0x7FF#11 ++ 1#1 ++ f.extractLsb' 0 22 ++ 0#29 := by
  rw [f32ToF64, h]

theorem unpack64_f32ToF64_inf {f : Word32} {neg : Bool} (h : unpack32 f = .inf neg) :
    unpack64 (f32ToF64 f) = .inf neg := by
  rw [f32ToF64, h, unpack64_pack64 neg (by decide)]
  rfl

/-- Binary64 has room for the values of binary32. -/
theorem represents_binary64_of_binary32 {x : Finite} (h : binary32.Represents x) : binary64.Represents x :=
  ⟨h.1.trans (by decide), le_trans (by decide) h.2⟩

/-- Widening a finite value is exact. -/
theorem unpack64_f32ToF64_finite {f : Word32} {x : Finite} (h : unpack32 f = .finite x) :
    ∃ y, unpack64 (f32ToF64 f) = .finite y ∧ y.neg = x.neg ∧ y.toRat = x.toRat := by
  have hround : binary64.roundMagnitude x.num x.den < 2 ^ 63 :=
    (binary64.roundMagnitude_le x.num x.den).trans_lt (by decide)
  have hlim : |x.toRat| < binary64.overflowLimit := (abs_toRat_lt_of_unpack32 h).trans <| by
    rw [binary32_overflowLimit, binary64_overflowLimit]
    exact mul_lt_mul_of_le_of_lt_of_nonneg_of_pos (pow_le_pow_right₀ one_le_two (by decide)) (by norm_num)
      (by norm_num) (by positivity)
  rw [f32ToF64, h, unpack64_pack64 x.neg hround]
  exact FloatFormat.unpack_roundMagnitude_of_represents (f := binary64) (by decide) (by decide)
    (represents_binary64_of_binary32 (binary32_represents_of_unpack32 f x h)) hlim

/-! ## The product -/

theorem Finite.toRat_ofInt (k : ℤ) : (Finite.ofInt k).toRat = k := by
  rcases lt_or_ge k 0 with hneg | hnonneg
  · simp [Finite.toRat, Finite.ofInt, hneg, abs_of_neg (Int.cast_lt_zero (R := ℚ).2 hneg)]
  · simp [Finite.toRat, Finite.ofInt, hnonneg.not_gt, abs_of_nonneg (Int.cast_nonneg (R := ℚ) hnonneg)]

/-- The product of finite values is the exact product correctly rounded (R11). -/
theorem f64Mul_correctlyRounded (a b : Finite) :
    CorrectlyRounded64 (a.toRat * b.toRat) (a.neg != b.neg) (f64Mul a b) := by
  have hprod : a.toRat * b.toRat = signFactor (a.neg != b.neg) * ((a.num * b.num : Nat) / (a.den * b.den : Nat)) := by
    rw [a.toRat_eq_div, b.toRat_eq_div, ← signFactor_mul]
    push_cast
    rw [mul_mul_mul_comm, div_mul_div_comm]
  rw [hprod]
  exact correctlyRounded64_pack64 _ _ (Nat.mul_ne_zero a.den_ne_zero b.den_ne_zero)

theorem dequantizeInt_correctlyRounded (p : Config.Params) {k : ℤ} {r : IntRes} (hk : k ≠ intMin r) (c : Config.Scale) :
    CorrectlyRounded64 (k * (scaleValue c).toRat) (decide (k < 0)) (dequantizeInt p k r c) := by
  obtain ⟨-, hpos, -⟩ := unpack64_scale c
  have hmul := f64Mul_correctlyRounded (Finite.ofInt k) (scaleValue c)
  rw [Finite.toRat_ofInt, hpos, Bool.bne_false] at hmul
  rw [dequantizeInt, if_neg hk]
  exact hmul

/-- Settles O27: at Float the conversion, at an integer resolution the sentinel or the product. -/
theorem dequantizeCommand : Obligations.DequantizeCommand := by
  intro s qty hf
  refine ⟨⟨dinFloat s, _, rfl, exec_qDequant_float hf qty, fun hnan => ?_, fun neg hinf => ?_, fun x hx => ?_⟩, ?_⟩
  · exact f32ToF64_nan ((isNaN32_iff _).1 hnan)
  · exact unpack64_f32ToF64_inf hinf
  · exact unpack64_f32ToF64_finite hx
  · rintro res r k hmem rfl
    refine ⟨_, exec_qDequant_integer hf qty (valueForm_of_mem hmem), fun hk => if_pos hk, fun hk c hc => ?_⟩
    rw [← scaleValue_eq hc]
    exact dequantizeInt_correctlyRounded s.cfg hk _

/-! ## The round trip at Float -/

/-- A binary32 value is narrowed to a pattern of the same sign and value. -/
theorem unpack32_of_correctlyRounded {f u : Word32} {x : Finite} (hf : unpack32 f = .finite x)
    (hu : CorrectlyRounded32 x.toRat x.neg u) : ∃ q, unpack32 u = .finite q ∧ q.neg = x.neg ∧ q.toRat = x.toRat := by
  have hlim := abs_toRat_lt_of_unpack32 hf
  rw [binary32_overflowLimit] at hlim
  obtain ⟨q, hq, hneg, hnear⟩ := hu.2 hlim
  obtain ⟨hle, -⟩ := hnear f x hf
  rw [sub_self, abs_zero] at hle
  exact ⟨q, hq, hneg, (sub_eq_zero.1 (abs_nonpos_iff.1 hle)).symm⟩

/-- A finite binary32 pattern is the only correct rounding of its own value. -/
theorem eq_of_correctlyRounded32 {f u : Word32} {x : Finite} (hf : unpack32 f = .finite x)
    (hu : CorrectlyRounded32 x.toRat x.neg u) : u = f := by
  obtain ⟨q, hq, hneg, hval⟩ := unpack32_of_correctlyRounded hf hu
  have hqx : q = x := FloatFormat.eq_of_toRat_eq (binary32_represents_of_unpack32 u q hq)
    (binary32_represents_of_unpack32 f x hf) (FloatFormat.normalized_of_unpack hq) (FloatFormat.normalized_of_unpack hf)
    hneg hval
  exact eq_of_unpack32_eq (by rw [hq, hf, hqx]) (by rw [hq]; exact FloatValue.noConfusion)

/-- Settles O32: a finite value is widened exactly and is its own rounding; an infinity keeps its sign. -/
theorem floatRoundTripExact : Obligations.FloatRoundTripExact := by
  intro p f hnan
  rw [quantizeFloat, dequantizeFloat]
  cases hv : unpack32 f with
  | nan => rw [(isNaN32_iff f).2 hv] at hnan; cases hnan
  | inf neg =>
    have hinf : unpack32 (pack32 neg 0x7F800000) = .inf neg := unpack32_pack32 neg (by decide)
    rw [f64ToF32_inf (unpack64_f32ToF64_inf hv)]
    exact eq_of_unpack32_eq (hinf.trans hv.symm) (by rw [hinf]; exact FloatValue.noConfusion)
  | finite x =>
    obtain ⟨y, hy, hneg, hval⟩ := unpack64_f32ToF64_finite hv
    have hround := f64ToF32_finite hy p.nanNarrow.apply
    rw [hneg, hval] at hround
    exact eq_of_correctlyRounded32 hv hround

end Sys2Proof.Machine
end

section
/-! The byte port and the frame writer (42_frame_writer.md): the mutation guard and the capacity check as equations, the
port's four commands, and the two appends as one store at FLEN. -/

namespace Sys2Proof.Machine

/-! ## The shared checks -/

/-- In a fault-free state a mutating command's body runs when the parser is not live (R120). -/
theorem mutating_of_idle {s : State} (hf : s.fault = false) (hl : s.parserLive = false) (k : Result State) :
    unlessFaulted s (guardMutation s k) = k :=
  (unlessFaulted_of_running hf _).trans (guardMutation_of_idle hl k)

theorem guardMutation_of_live {s : State} (hf : s.fault = false) (hl : s.parserLive = true) (k : Result State) :
    guardMutation s k = .next (s.raised .illegalCommand) := by
  rw [guardMutation, if_pos hl, raise_of_running hf]

/-- Under a live parser the guard answers for the body, whatever the body is (R120). -/
theorem mutating_of_live {s : State} (hf : s.fault = false) (hl : s.parserLive = true) (k : Result State) :
    unlessFaulted s (guardMutation s k) = .next (s.raised .illegalCommand) :=
  (unlessFaulted_of_running hf _).trans (guardMutation_of_live hf hl k)

theorem checkCapacity_of_fits {s : State} {n : Nat} (h : s.flen.toNat + n ≤ 64) (k : Result State) :
    checkCapacity n s k = k := by
  rw [checkCapacity, (s.overflows_eq_false_iff n).2 h, if_neg Bool.false_ne_true]

theorem checkCapacity_of_overflows {s : State} {n : Nat} (hf : s.fault = false) (h : 64 < s.flen.toNat + n)
    (k : Result State) : checkCapacity n s k = .next (s.raised .bufferOverflow) := by
  rw [checkCapacity, if_pos ((s.overflows_iff n).2 h), raise_of_running hf]

/-! ## The byte port -/

section
variable {s : State} (hf : s.fault = false)
include hf

theorem exec_fbClear : exec .fbClear s = .next { s with flen := 0#7, rcur := 0#7, pstate := .idle } :=
  unlessFaulted_of_running hf _

theorem exec_fbGet (idx : BitVec 6) :
    exec (.fbGet idx) s = .next { s with dout := (s.readByte idx.toNat).setWidth 64 } :=
  unlessFaulted_of_running hf _

theorem exec_fbPut (hl : s.parserLive = false) (idx : BitVec 6) (byte : Byte) :
    exec (.fbPut idx byte) s = .next (s.writeByte idx.toNat byte) :=
  mutating_of_idle hf hl _

theorem exec_fbSetlen (hl : s.parserLive = false) {len : BitVec 7} (hlen : len.toNat ≤ 64) :
    exec (.fbSetlen len) s = .next { s with flen := len } := by
  calc exec (.fbSetlen len) s = _ := unlessFaulted_of_running hf _
    _ = guardMutation s (.next { s with flen := len }) := if_neg (Nat.not_lt.2 hlen)
    _ = .next { s with flen := len } := guardMutation_of_idle hl _

/-- A length above 64 and a live parser raise the same error (R124). -/
theorem exec_fbSetlen_of_live (hl : s.parserLive = true) (len : BitVec 7) :
    exec (.fbSetlen len) s = .next (s.raised .illegalCommand) := by
  refine (unlessFaulted_of_running hf _).trans ?_
  split
  · exact raise_of_running hf _
  · exact guardMutation_of_live hf hl _

end

/-- What the buffer holds after one byte was stored in it. -/
theorem State.readByte_writeByte {s : State} (hwf : s.fb.wf = true) (i : Nat) (b : Byte) (a : Nat) :
    (s.writeByte i b).readByte a = if a = i then b else s.readByte a :=
  Memory.read_write hwf i b a

/-- Settles O16. -/
theorem fbClearEmptiesFrame : Obligations.FbClearEmptiesFrame := fun _ hf => exec_fbClear hf

/-- Settles O17: the next state is `writeByte`, whose reads are the memory's read after a write. -/
theorem fbPutStoresOneByte : Obligations.FbPutStoresOneByte := by
  intro s idx byte hf hl hwf
  refine ⟨s.writeByte idx.toNat byte, exec_fbPut hf hl idx byte, rfl, ?same, fun a ha => ?other⟩
  case same => rw [State.readByte_writeByte hwf, if_pos rfl]
  case other => rw [State.readByte_writeByte hwf, if_neg ha]

/-- Settles O18. -/
theorem fbGetReadsOneByte : Obligations.FbGetReadsOneByte := fun _ idx hf => exec_fbGet hf idx

/-- Settles O19. -/
theorem fbSetlenSetsLength : Obligations.FbSetlenSetsLength := fun _ _ hf hl hlen => exec_fbSetlen hf hl hlen

/-- Settles O20: the guard stands before all else; only FB_SETLEN looks at its operand first, for the same error. -/
theorem mutationGuardComesFirst : Obligations.MutationGuardComesFirst := by
  intro s hf hp
  have hl : s.parserLive = true := s.parserLive_iff.2 hp
  exact ⟨fun _ _ => mutating_of_live hf hl _, exec_fbSetlen_of_live hf hl, fun _ => mutating_of_live hf hl _,
    fun _ _ => mutating_of_live hf hl _, mutating_of_live hf hl _, exec_fbClear hf⟩

/-! ## The payload size of a resolution -/

theorem formSize?_of_mem_payload {res : Resolution} {w : Nat}
    (h : (res, w) ∈ [(Resolution.int8, 1), (.int16, 2), (.int32, 4), (.float, 4)]) :
    formSize? (valueForm res) = some w := by
  obtain ⟨rfl, rfl⟩ | ⟨r, hr, rfl⟩ := valueForm_of_mem_payload h
  · rfl
  · rw [hr, formSize?]

/-- A value quantizes to as many bytes as its resolution has. -/
theorem quantized?_of_formSize? {res : Resolution} {w : Nat} (h : formSize? (valueForm res) = some w)
    (p : Config.Params) (v : Word64) (qty : Quantity) : ∃ u, quantized? p v res qty = some (w, u) := by
  obtain ⟨rfl, _⟩ | ⟨w', u, hw', _, hq⟩ := quantized?_cases p v res qty
  · cases h
  · cases h.symm.trans hw'
    exact ⟨u, hq⟩

theorem exec_qQuant_of_quantized {s : State} {res : Resolution} {qty : Quantity} {w : Nat} {u : Word64}
    (hf : s.fault = false) (hq : quantized? s.cfg s.din res qty = some (w, u)) :
    exec (.qQuant res qty) s = .next { s with dout := u } := by
  rw [exec_qQuant, execQQuant, unlessFaulted_of_running hf, hq]

/-! ## The appends up to their capacity check -/

section
variable {s : State} (hf : s.fault = false) (hl : s.parserLive = false)
include hf hl

theorem exec_fbAppendRaw_ignore : exec (.fbAppendRaw .ignore) s = .next (s.raised .invalidResolution) :=
  (mutating_of_idle hf hl _).trans (raise_of_running hf _)

theorem exec_fbAppendQ_ignore (qty : Quantity) :
    exec (.fbAppendQ .ignore qty) s = .next (s.raised .invalidResolution) :=
  (mutating_of_idle hf hl _).trans (raise_of_running hf _)

theorem exec_fbAppendRaw_of_formSize {res : Resolution} {w : Nat} (hw : formSize? (valueForm res) = some w) :
    exec (.fbAppendRaw res) s = checkCapacity w s (.next (s.append (bytesLE w s.din))) := by
  refine (mutating_of_idle hf hl _).trans ?_
  rw [hw]

theorem exec_fbAppendQ_of_quantized {res : Resolution} {qty : Quantity} {w : Nat} {u : Word64}
    (hq : quantized? s.cfg s.din res qty = some (w, u)) :
    exec (.fbAppendQ res qty) s = checkCapacity w s (.next (s.append (bytesLE w u))) := by
  refine (mutating_of_idle hf hl _).trans ?_
  rw [hq]

end

/-- Settles O23: at Ignore there is no size to check, and otherwise the check of that size fails. -/
theorem appendErrorsInOrder : Obligations.AppendErrorsInOrder := by
  intro s hf hl
  refine ⟨exec_fbAppendRaw_ignore hf hl, exec_fbAppendQ_ignore hf hl, fun res w hmem hover => ?overflow⟩
  case overflow =>
    have hw := formSize?_of_mem_payload hmem
    refine ⟨?raw, fun qty => ?quantized⟩
    case raw => rw [exec_fbAppendRaw_of_formSize hf hl hw, checkCapacity_of_overflows hf hover, State.raised]
    case quantized =>
      obtain ⟨u, hq⟩ := quantized?_of_formSize? hw s.cfg s.din qty
      rw [exec_fbAppendQ_of_quantized hf hl hq, checkCapacity_of_overflows hf hover, State.raised]

/-! ## What an append stores -/

/-- `t` is `s` with the low `w` bytes of `v` stored at FLEN, little-endian, and FLEN moved past them; every other byte
and field is that of `s` (R126, 20_memory.md R54). -/
def State.AppendsLE (s : State) (w : Nat) (v : Word64) (t : State) : Prop :=
  t = { s with fb := t.fb, flen := t.flen }
  ∧ t.flen.toNat = s.flen.toNat + w
  ∧ (∀ k, k < w → t.readByte (s.flen.toNat + k) = (v >>> (8 * k)).setWidth 8)
  ∧ ∀ a, (a < s.flen.toNat ∨ s.flen.toNat + w ≤ a) → t.readByte a = s.readByte a

theorem State.appendsLE_append {s : State} {w : Nat} (v : Word64) (hwf : s.fb.wf = true)
    (hfit : s.flen.toNat + w ≤ 64) : s.AppendsLE w v (s.append (bytesLE w v)) := by
  have hlen : s.flen.toNat + (bytesLE w v).length ≤ 64 := by rwa [length_bytesLE]
  refine ⟨rfl, ?length, fun k hk => State.read_append_bytesLE v hfit hwf hk, fun a ha => ?outside⟩
  case length => rw [State.append_flen_toNat hlen, length_bytesLE]
  case outside =>
    refine (State.readByte_append hlen hwf a).trans (dif_neg ?_)
    rw [length_bytesLE]
    omega

/-- Settles O21. -/
theorem appendRawStoresLittleEndian : Obligations.AppendRawStoresLittleEndian := by
  intro s res w hmem hf hl hwf hfit
  refine ⟨s.append (bytesLE w s.din), ?run, State.appendsLE_append s.din hwf hfit⟩
  rw [exec_fbAppendRaw_of_formSize hf hl (formSize?_of_mem_payload hmem), checkCapacity_of_fits hfit]

/-- Settles O22: the pattern that Q_QUANT writes to DOUT is the one whose bytes are appended. -/
theorem appendQStoresWhatQuantGives : Obligations.AppendQStoresWhatQuantGives := by
  intro s res qty w hmem hf hl hwf hfit
  obtain ⟨u, hq⟩ := quantized?_of_formSize? (formSize?_of_mem_payload hmem) s.cfg s.din qty
  refine ⟨{ s with dout := u }, s.append (bytesLE w u), exec_qQuant_of_quantized hf hq, ?run,
    State.appendsLE_append u hwf hfit⟩
  rw [exec_fbAppendQ_of_quantized hf hl hq, checkCapacity_of_fits hfit]

end Sys2Proof.Machine
end

section
/-! The write combiner (43_combiner.md), command by command: a combiner's start and end, its declarations, and the
decision of CMB_STEP with the header that it may append. -/

namespace Sys2Proof.Machine

/-! ## Starting, declaring, ending -/

section
variable {s : State} (hf : s.fault = false)
include hf

theorem exec_cmbInit_of_free {base : Byte} (hbase : base ∈ legalBases) (hfree : s.cact = false ∨ s.ci = s.cn) :
    exec (.cmbInit base) s = .next { s with
      cact := true, cbase := base, cstart := dinStart s, cn := 0#8, ci := 0#8, ccur := .ignore } := by
  refine (unlessFaulted_of_running hf _).trans ?_
  rw [if_neg (by simpa using hbase), if_neg (by simpa [or_iff_not_imp_left] using hfree)]

theorem exec_cmbInit_of_unfinished {base : Byte} (hbase : base ∈ legalBases) (hact : s.cact = true)
    (hne : s.ci ≠ s.cn) : exec (.cmbInit base) s = .next (s.raised .internalContractViolation) := by
  refine (unlessFaulted_of_running hf _).trans ?_
  rw [if_neg (by simpa using hbase), if_pos (by simp [hact, hne]), raise_of_running hf]

theorem exec_cmbDecl_of_absent (hact : s.cact = false) (res : Resolution) :
    exec (.cmbDecl res) s = .next (s.raised .illegalCommand) := by
  refine (unlessFaulted_of_running hf _).trans ?_
  rw [if_pos (by simp [hact]), raise_of_running hf]

/-- After a decision, or past N_MAX (R142). -/
theorem exec_cmbDecl_of_closed (hact : s.cact = true) (hclosed : s.ci ≠ 0#8 ∨ s.cn = 255#8) (res : Resolution) :
    exec (.cmbDecl res) s = .next (s.raised .illegalCommand) := by
  refine (unlessFaulted_of_running hf _).trans ?_
  rw [if_neg (by simp [hact]), raise_of_running hf]
  by_cases hci : s.ci = 0#8
  · have hfull : s.cn.toNat = Config.nMax := by
      rw [hclosed.resolve_left (not_not.2 hci)]
      rfl
    rw [if_neg (not_not.2 hci), if_pos hfull]
  · rw [if_pos hci]

theorem exec_cmbDecl_of_open (hact : s.cact = true) (hci : s.ci = 0#8) (hcn : s.cn.toNat < 255) (res : Resolution) :
    exec (.cmbDecl res) s = .next { s with cres := s.cres.setIfInBounds s.cn.toNat res, cn := s.cn + 1#8 } := by
  have hroom : s.cn.toNat ≠ Config.nMax := hcn.ne
  refine (unlessFaulted_of_running hf _).trans ?_
  rw [if_neg (by simp [hact]), if_neg (not_not.2 hci), if_neg hroom]

theorem exec_cmbEnd_of_absent (hact : s.cact = false) : exec .cmbEnd s = .next (s.raised .illegalCommand) := by
  refine (unlessFaulted_of_running hf _).trans ?_
  rw [if_pos (by simp [hact]), raise_of_running hf]

theorem exec_cmbEnd_of_finished (hact : s.cact = true) (heq : s.ci = s.cn) :
    exec .cmbEnd s = .next { s with cact := false } := by
  refine (unlessFaulted_of_running hf _).trans ?_
  rw [if_neg (by simp [hact]), if_neg (not_not.2 heq)]

theorem exec_cmbEnd_of_unfinished (hact : s.cact = true) (hne : s.ci ≠ s.cn) :
    exec .cmbEnd s = .next (s.raised .internalContractViolation) := by
  refine (unlessFaulted_of_running hf _).trans ?_
  rw [if_neg (by simp [hact]), if_pos hne, raise_of_running hf]

end

/-- Settles O35. -/
theorem cmbInitStarts : Obligations.CmbInitStarts := fun _ _ hf hbase =>
  ⟨exec_cmbInit_of_free hf hbase, exec_cmbInit_of_unfinished hf hbase⟩

/-- Settles O40. -/
theorem cmbEndEnds : Obligations.CmbEndEnds := fun _ hf hact =>
  ⟨exec_cmbEnd_of_finished hf hact, exec_cmbEnd_of_unfinished hf hact⟩

/-! ## The declarations -/

/-- What CRES reads as after one entry inside it was stored. -/
theorem State.declared_setIfInBounds {s t : State} {i : Nat} {res : Resolution} (hi : i < 255)
    (ht : t.cres = s.cres.setIfInBounds i res) (k : Nat) : t.declared k = if k = i then res else s.declared k := by
  rw [State.declared, ht, Vector.getElem?_setIfInBounds]
  by_cases hk : k = i
  · rw [if_pos hk.symm, if_pos hi, if_pos hk, Option.getD_some]
  · rw [if_neg (Ne.symm hk), if_neg hk, State.declared]

/-- Settles O36: the next state is one store into CRES. -/
theorem cmbDeclAppends : Obligations.CmbDeclAppends := by
  intro s res hf hact hci hcn
  refine ⟨_, exec_cmbDecl_of_open hf hact hci hcn res, rfl, ?count, ?same, fun k hk => ?other⟩
  case count => exact BitVec.toNat_add_of_lt (y := 1#8) (Nat.succ_lt_succ hcn)
  case same => rw [State.declared_setIfInBounds hcn rfl, if_pos rfl]
  case other => rw [State.declared_setIfInBounds hcn rfl, if_neg hk]

/-! ## The checks of a header -/

/-- R146: the bytes before the register id, the register id, the register-id byte. -/
theorem headerError?_eq (s : State) (count reg : Nat) :
    headerError? s count reg
      = if 64 < s.flen.toNat + (if count ≤ 3 then 1 else 2) then some .bufferOverflow
        else if 127 < reg then some .unsupportedAddress
        else if 64 < s.flen.toNat + (if count ≤ 3 then 1 else 2) + 1 then some .bufferOverflow
        else none := by
  simp only [headerError?, State.overflows_iff, Config.addrMax, Nat.add_assoc]

/-- A header that fits with its register id passes the checks. -/
theorem headerError?_eq_none {s : State} {count reg : Nat} (hreg : reg ≤ 127)
    (hfit : s.flen.toNat + (if count ≤ 3 then 2 else 3) ≤ 64) : headerError? s count reg = none := by
  have hlast : s.flen.toNat + (if count ≤ 3 then 1 else 2) + 1 ≤ 64 := by
    split at hfit <;> split <;> omega
  rw [headerError?_eq, if_neg (by omega), if_neg (Nat.not_lt.2 hreg), if_neg (Nat.not_lt.2 hlast)]

/-! ## The decision -/

section
variable {s : State} (hf : s.fault = false)
include hf

theorem exec_cmbStep_of_live (hl : s.parserLive = true) : exec .cmbStep s = .next (s.raised .illegalCommand) :=
  mutating_of_live hf hl _

theorem exec_cmbStep_of_absent (hact : s.cact = false) : exec .cmbStep s = .next (s.raised .illegalCommand) := by
  cases hl : s.parserLive
  · refine (mutating_of_idle hf hl _).trans ?_
    rw [if_pos (by simp [hact]), raise_of_running hf]
  · exact exec_cmbStep_of_live hf hl

variable (hl : s.parserLive = false) (hact : s.cact = true)
include hl hact

theorem exec_cmbStep_of_finished (heq : s.ci = s.cn) :
    exec .cmbStep s = .next (s.raised .internalContractViolation) := by
  refine (mutating_of_idle hf hl _).trans ?_
  rw [if_neg (by simp [hact]), if_pos heq, raise_of_running hf]

variable (hlt : s.ci.toNat < s.cn.toNat)
include hlt

theorem exec_cmbStep_of_lt : exec .cmbStep s = decideRegister s := by
  refine (mutating_of_idle hf hl _).trans ?_
  have hne : s.ci ≠ s.cn := fun heq => hlt.ne (congrArg BitVec.toNat heq)
  rw [if_neg (by simp [hact]), if_neg hne, if_neg (BitVec.not_lt.2 hlt.le)]

/-- No header for the current resolution again, nor for a gap (R143). -/
theorem exec_cmbStep_of_quiet (hq : s.declared s.ci.toNat = s.ccur ∨ s.declared s.ci.toNat = .ignore) :
    exec .cmbStep s
      = .next (s.decided (s.declared s.ci.toNat) (s.declared s.ci.toNat != .ignore)) := by
  rw [exec_cmbStep_of_lt hf hl hact hlt, decideRegister]
  by_cases hcur : s.declared s.ci.toNat = s.ccur
  · rw [if_pos hcur]
  · have hgap := hq.resolve_left hcur
    rw [if_neg hcur, if_pos hgap, hgap]
    rfl

variable (hne : s.declared s.ci.toNat ≠ s.ccur) (hgap : s.declared s.ci.toNat ≠ .ignore)
include hne hgap

theorem exec_cmbStep_of_headerError {e : ErrorKind}
    (he : headerError? s (s.runLength s.ci.toNat) (s.cstart.toNat + s.ci.toNat) = some e) :
    exec .cmbStep s = .next (s.raised e) := by
  simp only [exec_cmbStep_of_lt hf hl hact hlt, decideRegister, if_neg hne, if_neg hgap, he, raise_of_running hf]

theorem exec_cmbStep_of_header (hreg : s.cstart.toNat + s.ci.toNat ≤ 127)
    (hfit : s.flen.toNat + (if s.runLength s.ci.toNat ≤ 3 then 2 else 3) ≤ 64) :
    exec .cmbStep s
      = .next ((s.append (headerBytes s.cbase (s.declared s.ci.toNat) (s.runLength s.ci.toNat)
          (s.cstart.toNat + s.ci.toNat))).decided (s.declared s.ci.toNat) true) := by
  simp only [exec_cmbStep_of_lt hf hl hact hlt, decideRegister, if_neg hne, if_neg hgap,
    headerError?_eq_none hreg hfit]

end

/-- Settles O41. -/
theorem combinerMisuseRaises : Obligations.CombinerMisuseRaises := fun _ hf =>
  ⟨fun hact => ⟨exec_cmbDecl_of_absent hf hact, exec_cmbStep_of_absent hf hact, exec_cmbEnd_of_absent hf hact⟩,
    exec_cmbDecl_of_closed hf, fun hact hl => exec_cmbStep_of_finished hf hl hact⟩

theorem writeFlag_ne_ignore (r : Resolution) : writeFlag (r != .ignore) = if r = .ignore then 0#64 else 1#64 := by
  cases r <;> rfl

/-- Settles O37. -/
theorem cmbStepWithoutHeader : Obligations.CmbStepWithoutHeader := by
  intro s hf hl hact hlt hq
  rw [exec_cmbStep_of_quiet hf hl hact hlt hq, State.decided, writeFlag_ne_ignore]

/-- Settles O39: each clause is one branch of the checks. -/
theorem headerChecksInOrder : Obligations.HeaderChecksInOrder := by
  rintro s _ _ _ hf hl hact hlt hne hgap rfl rfl rfl
  have hchecks := headerError?_eq s (s.runLength s.ci.toNat) (s.cstart.toNat + s.ci.toNat)
  refine ⟨fun hover => ?opcode, fun hfit hreg => ?register, fun hfit hreg hover => ?last⟩
  case opcode =>
    rw [if_pos hover] at hchecks
    exact exec_cmbStep_of_headerError hf hl hact hlt hne hgap hchecks
  case register =>
    rw [if_neg (Nat.not_lt.2 hfit), if_pos hreg] at hchecks
    exact exec_cmbStep_of_headerError hf hl hact hlt hne hgap hchecks
  case last =>
    rw [if_neg (Nat.not_lt.2 hfit), if_neg (Nat.not_lt.2 hreg), if_pos hover] at hchecks
    exact exec_cmbStep_of_headerError hf hl hact hlt hne hgap hchecks

/-! ## The header's bytes -/

theorem State.readByte_append_of_getElem? {s : State} {bs : List Byte} {k : Nat} {b : Byte}
    (hfit : s.flen.toNat + bs.length ≤ Config.fbCap) (hwf : s.fb.wf = true) (hb : bs[k]? = some b) :
    (s.append bs).readByte (s.flen.toNat + k) = b := by
  obtain ⟨hk, hbk⟩ := List.getElem?_eq_some_iff.1 hb
  rw [State.readByte_append hfit hwf, dif_pos ⟨Nat.le_add_right _ _, Nat.add_lt_add_left hk _⟩]
  simpa only [Nat.add_sub_cancel_left] using hbk

section
variable (base : Byte) (r : Resolution) (count reg : Nat)

theorem headerBytes_opcode : (headerBytes base r count reg)[0]? = some (headerOpcode base r count) := by
  unfold headerBytes
  split <;> rfl

theorem headerBytes_count (h : 3 < count) : (headerBytes base r count reg)[1]? = some (BitVec.ofNat 8 count) := by
  rw [headerBytes, if_neg (Nat.not_le.2 h)]
  rfl

theorem headerBytes_register :
    (headerBytes base r count reg)[(if count ≤ 3 then 2 else 3) - 1]? = some (BitVec.ofNat 8 reg) := by
  unfold headerBytes
  split <;> rfl

end

/-- Settles O38: the next state is one append of the header's bytes, and a decision. -/
theorem cmbStepEmitsHeader : Obligations.CmbStepEmitsHeader := by
  rintro s _ _ _ hf hl hact hlt hwf rfl hne hgap rfl rfl hfit hreg
  have hlen := length_headerBytes s.cbase (s.declared s.ci.toNat) (s.runLength s.ci.toNat)
    (s.cstart.toNat + s.ci.toNat)
  have hfit' := hfit
  rw [← hlen] at hfit'
  refine ⟨_, exec_cmbStep_of_header hf hl hact hlt hne hgap hreg hfit, rfl, ?length, ?opcode, fun hlong => ?count,
    ?register, fun a ha => ?outside⟩
  case length => rw [State.decided_flen, State.append_flen_toNat hfit', hlen]
  case opcode => exact State.readByte_append_of_getElem? hfit' hwf (headerBytes_opcode _ _ _ _)
  case count => exact State.readByte_append_of_getElem? hfit' hwf (headerBytes_count _ _ _ _ hlong)
  case register =>
    rw [Nat.add_sub_assoc (by split <;> decide)]
    exact State.readByte_append_of_getElem? hfit' hwf (headerBytes_register _ _ _ _)
  case outside =>
    refine (State.readByte_append hfit' hwf a).trans (dif_neg ?_)
    rw [hlen]
    omega

/-- The base, the shifted resolution code and the count share no bits (R144, R80). -/
theorem opcode_fields_eq_append : ∀ (f : BitVec 4) (rc c : BitVec 2),
    (f ++ 0x0#4 : Byte) ||| rc.setWidth 8 <<< 2 ||| c.setWidth 8 = f ++ (rc ++ c) := by
  decide

theorem headerOpcode_eq_append (f : BitVec 4) (r : Resolution) (count : Nat) :
    headerOpcode (f ++ 0x0#4) r count
      = f ++ (r.wireCode ++ if count ≤ 3 then BitVec.ofNat 2 count else 0#2) := by
  have hcount : (if count ≤ 3 then BitVec.ofNat 8 count else 0#8)
      = (if count ≤ 3 then BitVec.ofNat 2 count else 0#2).setWidth 8 := by
    split
    · next h => interval_cases count <;> rfl
    · rfl
  rw [headerOpcode, hcount, opcode_fields_eq_append]

/-- Settles O43. -/
theorem headerOpcodeIsWireOpcode : Obligations.HeaderOpcodeIsWireOpcode := by
  intro r count _ _ c
  obtain ⟨hwrite, hread, hreply⟩ := wireByteFamilies.1 r.wireCode c
  rw [← headerOpcode_eq_append] at hwrite hread hreply
  exact ⟨hwrite, hread, hreply⟩

end Sys2Proof.Machine
end

section
/-! Runs of equal declarations (43_combiner.md R140) and the header bytes of a whole combiner (R148).

CMB_STEP looks at one declaration and the current resolution, R148 at the maximal groups of equal declarations. Between
them stand the header bytes that are still to come: what FLEN gains by a step, they lose. -/

namespace Sys2Proof.Machine

/-! ## The run length -/

/-- The run found is within bounds, is made of `r`, and ends at the bound or before another resolution. -/
theorem runFrom_spec (s : State) (r : Resolution) : ∀ (n j : Nat),
    runFrom s r j n ≤ n ∧ (∀ k, k < runFrom s r j n → s.declared (j + k) = r)
    ∧ (runFrom s r j n < n → s.declared (j + runFrom s r j n) ≠ r)
  | 0, j => by simp [runFrom]
  | n + 1, j => by
    obtain ⟨hle, hall, hend⟩ := runFrom_spec s r n (j + 1)
    rw [runFrom]
    split
    · next hj =>
      have hshift : ∀ k, s.declared (j + (1 + k)) = s.declared (j + 1 + k) := fun k => by rw [Nat.add_assoc]
      refine ⟨by omega, fun k hk => ?_, fun hlt => ?_⟩
      · rcases k with _ | k
        · exact hj
        · rw [Nat.add_comm k, hshift]
          exact hall k (by omega)
      · rw [hshift]
        exact hend (by omega)
    · next hj => exact ⟨Nat.zero_le _, fun k hk => absurd hk (Nat.not_lt_zero k), fun _ => hj⟩

theorem runFrom_pos {s : State} {r : Resolution} {j n : Nat} (hn : 0 < n) (hj : s.declared j = r) :
    1 ≤ runFrom s r j n := by
  obtain ⟨m, rfl⟩ := Nat.exists_eq_add_of_le' hn
  rw [runFrom, if_pos hj]
  exact Nat.le_add_right _ _

/-- Settles O42. -/
theorem runLengthIsMaximal : Obligations.RunLengthIsMaximal := by
  intro s i hi
  obtain ⟨hle, hall, hend⟩ := runFrom_spec s (s.declared i) (s.cn.toNat - i) i
  exact ⟨runFrom_pos (Nat.sub_pos_of_lt hi) rfl, Nat.add_le_of_le_sub' hi.le hle, hall,
    fun hlt => hend (Nat.lt_sub_iff_add_lt'.2 hlt)⟩

/-! ## The declarations as a list -/

theorem State.drop_declarations {s : State} {i : Nat} (hi : i < s.cn.toNat) :
    s.declarations.drop i = s.declared i :: s.declarations.drop (i + 1) := by
  have hcn := s.cn.isLt
  have hlen : i < s.declarations.length := by
    rw [State.declarations, List.length_take, Vector.length_toList]
    omega
  rw [List.drop_eq_getElem_cons hlen]
  congr 1
  have hbound : i < 255 := by omega
  simp [State.declarations, State.declared, hbound]

theorem State.drop_declarations_of_le {s : State} {i : Nat} (hi : s.cn.toNat ≤ i) : s.declarations.drop i = [] :=
  List.drop_eq_nil_of_le ((List.length_take_le _ _).trans hi)

/-- The group that a declaration is the first of. -/
theorem State.takeWhile_drop_declarations {s : State} {i : Nat} (hi : i < s.cn.toNat) :
    (s.declarations.drop i).takeWhile (· == s.declared i)
      = s.declared i :: (s.declarations.drop (i + 1)).takeWhile (· == s.declared i) := by
  rw [State.drop_declarations hi, List.takeWhile_cons, if_pos (beq_self_eq_true _)]

theorem runFrom_eq_length_takeWhile (s : State) (r : Resolution) : ∀ {n j : Nat}, j + n = s.cn.toNat →
    runFrom s r j n = ((s.declarations.drop j).takeWhile (· == r)).length
  | 0, j, hj => by
    rw [State.drop_declarations_of_le (i := j) hj.ge]
    rfl
  | n + 1, j, hj => by
    have ih := runFrom_eq_length_takeWhile s r (n := n) (j := j + 1) (by omega)
    rw [runFrom, State.drop_declarations (by omega), List.takeWhile_cons, ih]
    by_cases hr : s.declared j = r
    · rw [if_pos hr, if_pos (beq_iff_eq.2 hr), List.length_cons, Nat.add_comm]
    · rw [if_neg hr, if_neg (mt beq_iff_eq.1 hr), List.length_nil]

theorem State.runLength_eq_length_takeWhile {s : State} {i : Nat} (hi : i < s.cn.toNat) :
    s.runLength i = ((s.declarations.drop i).takeWhile (· == s.declared i)).length :=
  runFrom_eq_length_takeWhile s _ (Nat.add_sub_cancel' hi.le)

/-! ## The header bytes still to come -/

/-- The header bytes of a declaration list after the resolution `cur`: none for a declaration that goes on with `cur`,
and else those of the group it opens. -/
def headersAfter (cur : Resolution) : List Resolution → Nat
  | [] => 0
  | r :: rs => (if r = cur then 0 else groupHeaderSize (r :: rs.takeWhile (· == r))) + headersAfter r rs

theorem groupHeaderSize_ignore (g : List Resolution) : groupHeaderSize (.ignore :: g) = 0 := rfl

theorem groupHeaderSize_cons {r : Resolution} (hr : r ≠ .ignore) (g : List Resolution) :
    groupHeaderSize (r :: g) = if (r :: g).length ≤ 3 then 2 else 3 :=
  if_neg (by simpa using hr)

/-- The first maximal group is split off. -/
theorem splitBy_beq_cons {α : Type} [BEq α] [LawfulBEq α] (a : α) (l : List α) :
    (a :: l).splitBy (· == ·) = (a :: l.takeWhile (· == a)) :: (l.dropWhile (· == a)).splitBy (· == ·) := by
  have hgroup : ∀ x ∈ a :: l.takeWhile (· == a), x = a := fun x hx =>
    (List.mem_cons.1 hx).elim id fun hx => beq_iff_eq.1 (List.mem_takeWhile_imp (p := (· == a)) hx)
  have hchain : (a :: l.takeWhile (· == a)).IsChain fun x y => (x == y) = true := by
    rw [List.eq_replicate_of_mem hgroup]
    exact List.isChain_replicate_of_rel _ (beq_self_eq_true a)
  have hnext : ∀ x ∈ (a :: l.takeWhile (· == a)).getLast?, ∀ y ∈ (l.dropWhile (· == a)).head?, (x == y) = false := by
    intro x hx y hy
    rw [hgroup x (List.mem_of_getLast? hx), BEq.comm]
    have hhead := List.head?_dropWhile_not (· == a) l
    rw [Option.mem_def.1 hy] at hhead
    simpa using hhead
  calc (a :: l).splitBy (· == ·)
      = ((a :: l.takeWhile (· == a)) ++ l.dropWhile (· == a)).splitBy (· == ·) := by
        rw [List.cons_append, List.takeWhile_append_dropWhile]
    _ = _ := by
        rw [List.splitBy_append hnext, List.splitBy_of_isChain (List.cons_ne_nil _ _) hchain, List.singleton_append]

theorem headerTotal_cons (r : Resolution) (rs : List Resolution) :
    headerTotal (r :: rs) = groupHeaderSize (r :: rs.takeWhile (· == r)) + headerTotal (rs.dropWhile (· == r)) := by
  rw [headerTotal, splitBy_beq_cons, List.map_cons, List.sum_cons, headerTotal]

theorem headersAfter_eq_headerTotal_dropWhile : ∀ (cur : Resolution) (rs : List Resolution),
    headersAfter cur rs = headerTotal (rs.dropWhile (· == cur))
  | _, [] => rfl
  | cur, r :: rs => by
    rw [headersAfter, headersAfter_eq_headerTotal_dropWhile r rs, List.dropWhile_cons]
    by_cases hr : r = cur
    · rw [if_pos hr, if_pos (beq_iff_eq.2 hr), hr, Nat.zero_add]
    · rw [if_neg hr, if_neg (mt beq_iff_eq.1 hr), headerTotal_cons]

/-- Before the first decision every header is still to come: a leading gap has none (R148). -/
theorem headersAfter_ignore (rs : List Resolution) : headersAfter .ignore rs = headerTotal rs := by
  rw [headersAfter_eq_headerTotal_dropWhile]
  cases rs with
  | nil => rfl
  | cons r rs =>
    rw [List.dropWhile_cons]
    split
    · next hr =>
      obtain rfl := beq_iff_eq.1 hr
      rw [headerTotal_cons, groupHeaderSize_ignore, Nat.zero_add]
    · rfl

/-- The header bytes that a combiner's remaining steps append. -/
def State.headersLeft (s : State) : Nat := headersAfter s.ccur (s.declarations.drop s.ci.toNat)

theorem State.headersLeft_of_finished {s : State} (h : s.ci = s.cn) : s.headersLeft = 0 := by
  rw [State.headersLeft, h, State.drop_declarations_of_le le_rfl, headersAfter]

theorem State.decided_ci_toNat {s : State} (hlt : s.ci.toNat < s.cn.toNat) (r : Resolution) (w : Bool) :
    (s.decided r w).ci.toNat = s.ci.toNat + 1 :=
  BitVec.toNat_add_of_lt (y := 1#8) ((Nat.succ_le_of_lt hlt).trans_lt s.cn.isLt)

section
variable {s : State} (hlt : s.ci.toNat < s.cn.toNat) (w : Bool)
include hlt

theorem State.headersLeft_eq :
    s.headersLeft
      = (if s.declared s.ci.toNat = s.ccur then 0
          else groupHeaderSize ((s.declarations.drop s.ci.toNat).takeWhile (· == s.declared s.ci.toNat)))
        + (s.decided (s.declared s.ci.toNat) w).headersLeft := by
  have hlater : (s.decided (s.declared s.ci.toNat) w).headersLeft
      = headersAfter (s.declared s.ci.toNat) (s.declarations.drop (s.ci.toNat + 1)) := by
    rw [State.headersLeft, State.decided_ci_toNat hlt]
    rfl
  rw [hlater, State.takeWhile_drop_declarations hlt, State.headersLeft, State.drop_declarations hlt, headersAfter]

theorem State.headersLeft_of_quiet (hq : s.declared s.ci.toNat = s.ccur ∨ s.declared s.ci.toNat = .ignore) :
    s.headersLeft = (s.decided (s.declared s.ci.toNat) w).headersLeft := by
  rw [State.headersLeft_eq hlt w]
  split
  · exact Nat.zero_add _
  · next hne =>
    have hgap := hq.resolve_left hne
    rw [State.takeWhile_drop_declarations hlt, hgap, groupHeaderSize_ignore, Nat.zero_add]

theorem State.headersLeft_of_header (hne : s.declared s.ci.toNat ≠ s.ccur) (hgap : s.declared s.ci.toNat ≠ .ignore) :
    s.headersLeft = (if s.runLength s.ci.toNat ≤ 3 then 2 else 3)
      + (s.decided (s.declared s.ci.toNat) w).headersLeft := by
  rw [State.headersLeft_eq hlt w, if_neg hne, State.runLength_eq_length_takeWhile hlt,
    State.takeWhile_drop_declarations hlt, groupHeaderSize_cons hgap]

end

/-! ## Stepping through the declarations -/

/-- A combiner that can be stepped through its declarations: no error, no live parser, and every run that opens a
header does so at a register id that a header may carry (R143, R146). -/
structure State.Steppable (s : State) : Prop where
  running : s.fault = false
  idle : s.parserLive = false
  active : s.cact = true
  current : s.currentResolutionOk
  openers : ∀ k, k < s.cn.toNat → s.declared k ≠ .ignore → k = 0 ∨ s.declared (k - 1) ≠ s.declared k →
    s.cstart.toNat + k ≤ 127

namespace State.Steppable

variable {s : State} (h : s.Steppable)
include h

theorem append (bs : List Byte) : (s.append bs).Steppable := ⟨h.running, h.idle, h.active, h.current, h.openers⟩

theorem decided (hlt : s.ci.toNat < s.cn.toNat) (w : Bool) : (s.decided (s.declared s.ci.toNat) w).Steppable := by
  refine ⟨h.running, h.idle, h.active, ?_, h.openers⟩
  have hci := State.decided_ci_toNat hlt (s.declared s.ci.toNat) w
  have hne : (s.decided (s.declared s.ci.toNat) w).ci ≠ 0#8 := fun h0 => by
    rw [h0] at hci
    exact Nat.succ_ne_zero _ hci.symm
  rw [State.currentResolutionOk, if_neg hne, hci, Nat.add_sub_cancel]
  rfl

/-- A declaration that is not the current resolution opens a run. -/
theorem register_le (hlt : s.ci.toNat < s.cn.toNat) (hne : s.declared s.ci.toNat ≠ s.ccur)
    (hgap : s.declared s.ci.toNat ≠ .ignore) : s.cstart.toNat + s.ci.toNat ≤ 127 := by
  refine h.openers _ hlt hgap ?_
  by_cases hci : s.ci = 0#8
  · exact .inl (congrArg BitVec.toNat hci)
  · refine .inr fun heq => hne ?_
    rw [h.current, if_neg hci, heq]

/-- What a step's header adds to FLEN, the headers to come lose. -/
theorem exec_cmbStep (hlt : s.ci.toNat < s.cn.toNat) (hfit : s.flen.toNat + s.headersLeft ≤ 64) :
    ∃ t, exec .cmbStep s = .next t ∧ t.Steppable ∧ t.ci.toNat = s.ci.toNat + 1 ∧ t.cn = s.cn ∧ t.din = s.din
      ∧ t.flen.toNat + t.headersLeft = s.flen.toNat + s.headersLeft := by
  by_cases hq : s.declared s.ci.toNat = s.ccur ∨ s.declared s.ci.toNat = .ignore
  · refine ⟨_, exec_cmbStep_of_quiet h.running h.idle h.active hlt hq, h.decided hlt _,
      State.decided_ci_toNat hlt _ _, rfl, rfl, ?_⟩
    rw [State.decided_flen, ← State.headersLeft_of_quiet hlt _ hq]
  · obtain ⟨hne, hgap⟩ := not_or.1 hq
    have hleft := State.headersLeft_of_header hlt true hne hgap
    have hroom : s.flen.toNat + (if s.runLength s.ci.toNat ≤ 3 then 2 else 3) ≤ 64 := by omega
    refine ⟨_, exec_cmbStep_of_header h.running h.idle h.active hlt hne hgap (h.register_le hlt hne hgap) hroom,
      (h.append _).decided hlt true, State.decided_ci_toNat (s := s.append _) hlt _ _, rfl, rfl, ?_⟩
    rw [State.decided_flen, State.append_flen_toNat (by rwa [length_headerBytes]), length_headerBytes, hleft,
      Nat.add_assoc]
    rfl

end State.Steppable

/-- The word 0x00000022 is CMB_STEP (30_encoding.md R71). -/
theorem serve_cmbStep {s : State} (hf : s.fault = false) :
    serve (.issue 0x00000022#32 s.din) s = exec .cmbStep s :=
  serve_issue_encodeCommand (i := .cmbStep) rfl rfl hf s.din

theorem serveAll_cmbSteps : ∀ {n : Nat} {s : State}, s.Steppable → s.ci.toNat + n = s.cn.toNat →
    s.flen.toNat + s.headersLeft ≤ 64 →
    ∃ t, serveAll (List.replicate n (.issue 0x00000022#32 s.din)) s = .next t
      ∧ t.fault = false ∧ t.ci = s.cn ∧ t.cn = s.cn ∧ t.flen.toNat = s.flen.toNat + s.headersLeft
  | 0, s, h, hn, _ => by
    have hend : s.ci = s.cn := BitVec.eq_of_toNat_eq hn
    exact ⟨s, rfl, h.running, hend, rfl, by rw [State.headersLeft_of_finished hend, Nat.add_zero]⟩
  | n + 1, s, h, hn, hfit => by
    obtain ⟨u, hstep, hu, hci, hcn, hdin, hflen⟩ := h.exec_cmbStep (by omega) hfit
    obtain ⟨t, hrun, hfault, htci, htcn, htflen⟩ :=
      serveAll_cmbSteps (n := n) hu (by rw [hci, hcn]; omega) (hflen.trans_le hfit)
    refine ⟨t, ?_, hfault, htci.trans hcn, htcn.trans hcn, htflen.trans hflen⟩
    rw [List.replicate_succ, serveAll_cons ((serve_cmbStep h.running).trans hstep), ← hdin]
    exact hrun

/-- Settles O44: a fresh combiner is steppable, and the headers it has still to append are all of them. -/
theorem combinerHeaderTotal : Obligations.CombinerHeaderTotal := by
  intro s hf hl hact hci hcur hopen hfit
  have hleft : s.headersLeft = headerTotal s.declarations := by
    rw [State.headersLeft, hcur, hci]
    exact headersAfter_ignore _
  have hstep : s.Steppable := ⟨hf, hl, hact, by rw [State.currentResolutionOk, if_pos hci, hcur], hopen⟩
  rw [← hleft] at hfit ⊢
  exact serveAll_cmbSteps hstep (by rw [hci]; exact Nat.zero_add _) hfit

end Sys2Proof.Machine
end

section
/-! The reply parser, call by call (44_parser.md): PRS_INIT, PRS_NEXT in each parser state, the element of an open run
and its fields, and what one wire opcode of the scan does. -/

namespace Sys2Proof.Machine

/-! ## The two commands -/

/-- Settles O45. -/
theorem prsInitCreatesParser : Obligations.PrsInitCreatesParser := fun _ hf => unlessFaulted_of_running hf _

section
variable {s : State} (hf : s.fault = false)
include hf

theorem exec_prsNext_of_idle (hp : s.pstate = .idle) : exec .prsNext s = .next (s.raised .illegalCommand) := by
  refine (unlessFaulted_of_running hf _).trans ?_
  rw [hp]
  exact raise_of_running hf _

theorem exec_prsNext_of_over (hp : s.pstate = .exhausted ∨ s.pstate = .error) :
    exec .prsNext s = .next { s with dout := 0#64 } := by
  refine (unlessFaulted_of_running hf _).trans ?_
  rcases hp with hp | hp <;> rw [hp]

theorem exec_prsNext_of_scanning (hp : s.pstate = .scanning) (hlen : s.flen.toNat ≤ 64) :
    exec .prsNext s = scan (s.flen.toNat - s.rcur.toNat) s := by
  refine (unlessFaulted_of_running hf _).trans ?_
  rw [hp]
  exact withinFrame_of_le hlen _

theorem exec_prsNext_of_inRun (hp : s.pstate = .inRun) (hlen : s.flen.toNat ≤ 64) :
    exec .prsNext s = yieldElement s := by
  refine (unlessFaulted_of_running hf _).trans ?_
  rw [hp]
  exact withinFrame_of_le hlen _

end

/-- Settles O46. -/
theorem prsNextOutsideSequence : Obligations.PrsNextOutsideSequence := fun _ hf =>
  ⟨exec_prsNext_of_idle hf, exec_prsNext_of_over hf⟩

/-! ## The element of an open run -/

/-- What an open run leaves when it yields its next element (the InRun part of R162). -/
def State.yielded (s : State) : State :=
  { s.consume (wireSize s.pres) with
    dout := element s.pnext s.pres (s.fb.readLE s.rcur.toNat (wireSize s.pres))
    pnext := s.pnext + 1#16
    prem := s.prem - 1#8
    pstate := if s.prem = 1#8 then .scanning else .inRun }

theorem State.yielded_rcur_toNat {s : State} (hfit : s.rcur.toNat + wireSize s.pres ≤ 64) :
    s.yielded.rcur.toNat = s.rcur.toNat + wireSize s.pres := State.consume_rcur_toNat hfit

theorem State.yielded_prem_toNat {s : State} (h : 0 < s.prem.toNat) : s.yielded.prem.toNat = s.prem.toNat - 1 := by
  have hprem := s.prem.isLt
  simp only [State.yielded, BitVec.toNat_sub, BitVec.toNat_ofNat]
  omega

theorem State.yielded_pnext_toNat {s : State} (h : s.pnext.toNat < 65535) :
    s.yielded.pnext.toNat = s.pnext.toNat + 1 := by
  simp only [State.yielded, BitVec.toNat_add, BitVec.toNat_ofNat]
  omega

/-- SCANNING after the last element (R162). -/
theorem State.yielded_pstate (s : State) :
    s.yielded.pstate = if s.yielded.prem = 0#8 then .scanning else .inRun := by
  simp only [State.yielded, BitVec.sub_eq_iff_eq_add, BitVec.zero_add]

theorem State.yielded_parserLive (s : State) : s.yielded.parserLive = true := by
  rw [State.parserLive_iff, State.yielded]
  exact (em (s.prem = 1#8)).imp (if_pos ·) (if_neg ·)

theorem State.prem_ne_zero {s : State} (h : 0 < s.prem.toNat) : s.prem ≠ 0#8 := fun h0 =>
  h.ne (congrArg BitVec.toNat h0).symm

theorem yieldElement_of_fits {s : State} (hprem : s.prem ≠ 0#8) (hid : s.pnext.toNat < 65535)
    (hfit : s.rcur.toNat + wireSize s.pres ≤ s.flen.toNat) : yieldElement s = .next s.yielded := by
  have hid' : s.pnext ≠ 0xFFFF#16 := fun h => by
    rw [h] at hid
    exact absurd hid (by decide)
  rw [yieldElement, if_neg hprem, if_neg (Nat.not_lt.2 hfit), if_neg hid']
  rfl

theorem yieldElement_of_missing {s : State} (hprem : s.prem ≠ 0#8)
    (hmiss : s.flen.toNat < s.rcur.toNat + wireSize s.pres) : yieldElement s = .next (s.endSequence .exhausted) := by
  rw [yieldElement, if_neg hprem, if_pos hmiss]

theorem eq_wireSize_of_mem {rc : BitVec 2} {w : Nat} (h : (rc, w) ∈ [(0#2, 1), (1#2, 2), (2#2, 4), (3#2, 4)]) :
    w = wireSize rc := by
  simp only [List.mem_cons, Prod.mk.injEq, List.not_mem_nil, or_false] at h
  rcases h with ⟨rfl, rfl⟩ | ⟨rfl, rfl⟩ | ⟨rfl, rfl⟩ | ⟨rfl, rfl⟩ <;> rfl

/-- Settles O47. -/
theorem prsNextInRun : Obligations.PrsNextInRun := by
  intro s w hf hp hlen hprem hid hw
  obtain rfl := eq_wireSize_of_mem hw
  rw [exec_prsNext_of_inRun hf hp hlen]
  exact ⟨yieldElement_of_fits hprem hid, yieldElement_of_missing hprem⟩

/-! ## The fields of an element -/

theorem element_fields (id : BitVec 16) (rc : BitVec 2) (u : Word32) :
    (element id rc u).extractLsb' 63 1 = 1#1 ∧ (element id rc u).extractLsb' 50 13 = 0#13
    ∧ (element id rc u).extractLsb' 48 2 = rc ∧ (element id rc u).extractLsb' 32 16 = id
    ∧ (element id rc u).extractLsb' 0 32 = u := by
  simp (disch := decide) only [element, BitVec.extractLsb'_append_eq_of_le, BitVec.extractLsb'_append_eq_of_add_le,
    BitVec.extractLsb'_eq_self, Nat.reduceSub, and_self]

theorem extractLsb'_shiftLeft_of_le {n : Nat} (x : BitVec n) {start k len : Nat} (h : start + k + len ≤ n) :
    (x <<< k).extractLsb' (start + k) len = x.extractLsb' start len := by
  ext i hi
  have hin : start + k + i < n ∧ start + i < n := by omega
  have hge : ¬start + k + i < k := by omega
  have hsub : start + k + i - k = start + i := by omega
  simp [hin, hge, hsub]

/-- Byte k of a little-endian read (20_memory.md R54). -/
theorem Memory.extractLsb'_readLE (m : Memory) : ∀ (w a : Nat) {k : Nat}, k < 4 →
    (m.readLE a w).extractLsb' (8 * k) 8 = if k < w then m.read (a + k) else 0#8
  | 0, _, k, _ => by rw [if_neg k.not_lt_zero, Memory.readLE, BitVec.extractLsb'_zero]
  | w + 1, a, 0, _ => by
    have hfirst : ((m.read a).setWidth 32).extractLsb' (8 * 0) 8 = m.read a := by
      simpa using extract_placed_same (m.read a) (k := 0) (by decide)
    have hrest : (m.readLE (a + 1) w <<< 8).extractLsb' (8 * 0) 8 = 0#8 := by
      simpa using extract_placed_disjoint (m.readLE (a + 1) w) (j := 8) (k := 0) (m := 8) (.inr (by decide))
    rw [Memory.readLE, BitVec.extractLsb'_or, hfirst, hrest, BitVec.or_zero, if_pos w.succ_pos, Nat.add_zero]
  | w + 1, a, k + 1, hk => by
    have hfirst : ((m.read a).setWidth 32).extractLsb' (8 * (k + 1)) 8 = 0#8 := by
      simpa using extract_placed_disjoint (m.read a) (j := 0) (k := 8 * (k + 1)) (m := 8) (.inl (by omega))
    have hrest : (m.readLE (a + 1) w <<< 8).extractLsb' (8 * (k + 1)) 8
        = if k < w then m.read (a + 1 + k) else 0#8 :=
      (extractLsb'_shiftLeft_of_le (start := 8 * k) (k := 8) _ (by omega)).trans
        (Memory.extractLsb'_readLE m w (a + 1) (Nat.lt_of_succ_lt hk))
    rw [Memory.readLE, BitVec.extractLsb'_or, hfirst, hrest, BitVec.zero_or, Nat.add_assoc, Nat.add_comm 1]
    simp only [Nat.add_lt_add_iff_right]

/-- Settles O48. -/
theorem elementFields : Obligations.ElementFields :=
  ⟨element_fields, fun m a w _ _ hk => m.extractLsb'_readLE w a hk⟩

/-! ## Fillers and framing errors -/

/-- Settles O50: every family but the filler and the reply is the one framing error. -/
theorem fillerAndFramingErrors : Obligations.FillerAndFramingErrors := by
  intro s
  refine ⟨fun _ => rfl, fun _ _ => ⟨rfl, rfl⟩, fun low i hi => ?_⟩
  simp only [List.mem_cons, List.not_mem_nil, or_false] at hi
  rcases hi with rfl | rfl | rfl | rfl | rfl | rfl | rfl | rfl | rfl | rfl | rfl | rfl <;> rfl

/-! ## Reply headers -/

theorem State.cursorByte_consume {s : State} {n : Nat} (h : s.rcur.toNat + n ≤ 64) :
    (s.consume n).cursorByte = s.readByte (s.rcur.toNat + n) := by
  rw [State.cursorByte, State.consume_rcur_toNat h, State.consume_readByte]

theorem State.consume_to_flen {s : State} {n : Nat} (hlen : s.flen.toNat ≤ 64)
    (h : s.rcur.toNat + n = s.flen.toNat) : s.consume n = { s with rcur := s.flen } := by
  have hcur : (s.consume n).rcur = s.flen :=
    BitVec.eq_of_toNat_eq ((State.consume_rcur_toNat (h.trans_le hlen)).trans h)
  rw [State.consume, ← State.consume_rcur, hcur]

theorem State.not_atEnd {s : State} (hlt : s.rcur.toNat < s.flen.toNat) : ¬s.atEnd = true :=
  mt s.atEnd_iff.1 (Nat.not_le.2 hlt)

section
variable {s : State} (rc : BitVec 2)

theorem openRun_of_atEnd (hend : s.flen.toNat ≤ s.rcur.toNat) (count : Byte) :
    openRun rc count s = s.endSequence .exhausted := by
  rw [openRun, if_pos (s.atEnd_iff.2 hend)]

theorem openRun_of_stopped (hlt : s.rcur.toNat < s.flen.toNat) (hstop : s.cfg.parseHighReg = .stop)
    (hreg : 0x80 ≤ s.cursorByte.toNat) (count : Byte) :
    openRun rc count s = (s.consume 1).endSequence .error := by
  rw [openRun, if_neg (State.not_atEnd hlt)]
  exact if_pos ⟨hstop, hreg⟩

theorem openRun_of_opened (hlt : s.rcur.toNat < s.flen.toNat)
    (hreg : s.cfg.parseHighReg = .asByte ∨ s.cursorByte.toNat < 0x80) (count : Byte) :
    openRun rc count s
      = { s.consume 1 with pres := rc, pnext := s.cursorByte.setWidth 16, prem := count, pstate := .inRun } := by
  rw [openRun, if_neg (State.not_atEnd hlt)]
  refine if_neg fun ⟨hstop, hhigh⟩ => ?_
  rcases hreg with hbyte | hlow
  · exact absurd (hbyte.symm.trans hstop) (by decide)
  · exact absurd hhigh (Nat.not_le.2 hlow)

theorem openLongRun_of_atEnd (hend : s.flen.toNat ≤ s.rcur.toNat) : openLongRun rc s = s.endSequence .exhausted := by
  rw [openLongRun, if_pos (s.atEnd_iff.2 hend)]

theorem openLongRun_of_empty (hlt : s.rcur.toNat < s.flen.toNat) (hcount : s.cursorByte = 0#8) :
    openLongRun rc s = s.consume 1 := by
  rw [openLongRun, if_neg (State.not_atEnd hlt)]
  exact if_pos hcount

theorem openLongRun_of_counted (hlt : s.rcur.toNat < s.flen.toNat) (hcount : s.cursorByte ≠ 0#8) :
    openLongRun rc s = openRun rc s.cursorByte (s.consume 1) := by
  rw [openLongRun, if_neg (State.not_atEnd hlt)]
  exact if_neg hcount

variable (hlen : s.flen.toNat ≤ 64)
include hlen

theorem exec_muxReply_long : exec (.muxReply rc 0#2) s = .next (openLongRun rc (s.consume 1)) :=
  (withinFrame_of_le hlen _).trans rfl

theorem exec_muxReply_inline {c : BitVec 2} (hc : c ≠ 0#2) :
    exec (.muxReply rc c) s = .next (openRun rc (c.setWidth 8) (s.consume 1)) := by
  refine (withinFrame_of_le hlen _).trans ?_
  rw [if_neg hc]

/-- The long form with its count byte in the frame. -/
theorem exec_muxReply_counted (hfit : s.rcur.toNat + 2 ≤ s.flen.toNat)
    (hcount : s.readByte (s.rcur.toNat + 1) ≠ 0#8) :
    exec (.muxReply rc 0#2) s = .next (openRun rc (s.readByte (s.rcur.toNat + 1)) (s.consume 2)) := by
  have hcur := State.consume_rcur_toNat (s := s) (n := 1) (by omega)
  have hbyte := State.cursorByte_consume (s := s) (n := 1) (by omega)
  rw [exec_muxReply_long rc hlen, openLongRun_of_counted rc (by rwa [hcur]) (by rwa [hbyte]), hbyte,
    State.consume_consume]

end

/-- Settles O51: either form of the header opens the run at the start-register byte. -/
theorem replyOpensRun : Obligations.ReplyOpensRun := by
  intro s rc c n count reg hlen hinline hlong hfit hreg
  obtain ⟨hn, hopen⟩ : 1 ≤ n ∧ exec (.muxReply rc c) s = .next (openRun rc count (s.consume (n - 1))) := by
    by_cases hc : c = 0#2
    · obtain ⟨rfl, rfl, hcount⟩ := hlong hc
      rw [hc]
      exact ⟨by decide, exec_muxReply_counted rc hlen (Nat.le_of_succ_le hfit) hcount⟩
    · obtain ⟨rfl, rfl⟩ := hinline hc
      exact ⟨by decide, exec_muxReply_inline rc hlen hc⟩
  have hlt : (s.consume (n - 1)).rcur.toNat < s.flen.toNat := by
    rw [State.consume_rcur_toNat (by omega)]
    omega
  have hbyte : (s.consume (n - 1)).cursorByte = reg := by
    rw [State.cursorByte_consume (by omega), hreg, Nat.add_sub_assoc hn]
  have hlast : (s.consume (n - 1)).consume 1 = s.consume n := by
    rw [State.consume_consume, Nat.sub_add_cancel hn]
  rw [hopen]
  refine ⟨fun hlow => ?opened, fun hstop hhigh => ?stopped⟩
  case opened =>
    rw [openRun_of_opened rc hlt (by rwa [hbyte]), hlast, hbyte]
    rfl
  case stopped =>
    rw [openRun_of_stopped rc hlt hstop (by rwa [hbyte]), hlast]
    rfl

/-- Settles O52. -/
theorem replyTruncatedOrEmpty : Obligations.ReplyTruncatedOrEmpty := by
  intro s rc c hlen
  refine ⟨fun h1 => ?opcodeLast, fun h2 hcount => ?countLast, fun h2 hcount => ?empty⟩
  case opcodeLast =>
    by_cases hc : c = 0#2
    · rw [hc, exec_muxReply_long rc hlen, State.consume_to_flen hlen h1]
      exact congrArg _ (openLongRun_of_atEnd rc le_rfl)
    · rw [exec_muxReply_inline rc hlen hc, State.consume_to_flen hlen h1]
      exact congrArg _ (openRun_of_atEnd rc le_rfl _)
  case countLast =>
    rw [exec_muxReply_counted rc hlen h2.le hcount, State.consume_to_flen hlen h2]
    exact congrArg _ (openRun_of_atEnd rc le_rfl _)
  case empty =>
    have hcur := State.consume_rcur_toNat (s := s) (n := 1) (by omega)
    have hbyte := State.cursorByte_consume (s := s) (n := 1) (by omega)
    rw [exec_muxReply_long rc hlen, openLongRun_of_empty rc (by rwa [hcur]) (by rwa [hbyte]), State.consume_consume]
    rfl

end Sys2Proof.Machine
end

section
/-! The scan (44_parser.md R162, R164): what one turn of it may do, and PRS_NEXT by its first turn.

One relation holds between the states before and after each part of a turn: only the parser's variables change, the
cursor moves on, and the scan goes on, has opened a run, or is over. -/

namespace Sys2Proof.Machine

/-! ## What the parser changes -/

/-- Only DOUT, RCUR and the parser's variables differ (R202, 20_memory.md R58). -/
abbrev State.ParserFrame (s t : State) : Prop :=
  t = { s with
    rcur := t.rcur, dout := t.dout, pstate := t.pstate, prem := t.prem, pres := t.pres, pnext := t.pnext }

theorem State.ParserFrame.trans {s t u : State} (h : s.ParserFrame t) (h' : t.ParserFrame u) : s.ParserFrame u := by
  rw [State.ParserFrame, h', h]

section
variable {s t : State} (h : s.ParserFrame t)
include h

theorem State.ParserFrame.fb_eq : t.fb = s.fb := (congrArg State.fb h :)
theorem State.ParserFrame.flen_eq : t.flen = s.flen := (congrArg State.flen h :)
theorem State.ParserFrame.fault_eq : t.fault = s.fault := (congrArg State.fault h :)

end

/-- The sequence is over and DOUT says so (R169). -/
def State.Ended (s : State) : Prop := (s.pstate = .exhausted ∨ s.pstate = .error) ∧ s.dout = 0#64

theorem State.Ended.not_live {s : State} (h : s.Ended) : s.parserLive = false := by
  rcases h.1 with hp | hp <;> rw [State.parserLive, hp]

/-- What a part of the scan that moves the cursor by at least n bytes may leave. -/
structure State.TurnsTo (s : State) (n : Nat) (t : State) : Prop where
  frame : s.ParserFrame t
  cursor : s.rcur.toNat + n ≤ t.rcur.toNat
  outcome : t.pstate = s.pstate ∨ t.pstate = .inRun ∨ t.Ended

/-- A turn of a live parser leaves it live, or has ended the sequence. -/
theorem State.TurnsTo.live_or_ended {s t : State} {n : Nat} (h : s.TurnsTo n t) (hp : s.pstate = .scanning) :
    t.parserLive = true ∨ t.Ended := by
  rw [State.parserLive_iff, or_assoc, ← hp]
  exact h.outcome

theorem State.turnsTo_self (s : State) : s.TurnsTo 0 s := ⟨rfl, le_rfl, .inl rfl⟩

theorem State.turnsTo_endSequence (s : State) {p : ParserState} (hp : p = .exhausted ∨ p = .error) :
    s.TurnsTo 0 (s.endSequence p) := ⟨rfl, le_rfl, .inr (.inr ⟨hp, rfl⟩)⟩

theorem State.TurnsTo.of_consume {s t : State} {m n : Nat} (hfit : s.rcur.toNat + m ≤ 64)
    (h : (s.consume m).TurnsTo n t) : s.TurnsTo (m + n) t := by
  obtain ⟨hframe, hcursor, houtcome⟩ := h
  rw [State.consume_rcur_toNat hfit, Nat.add_assoc] at hcursor
  exact ⟨State.ParserFrame.trans rfl hframe, hcursor, houtcome⟩

theorem State.TurnsTo.mono {s t : State} {m n : Nat} (h : s.TurnsTo n t) (hm : m ≤ n) : s.TurnsTo m t :=
  ⟨h.frame, (Nat.add_le_add_left hm _).trans h.cursor, h.outcome⟩

section
variable {s : State} (hlen : s.flen.toNat ≤ 64) (rc : BitVec 2)
include hlen

theorem turnsTo_openRun (count : Byte) : s.TurnsTo 0 (openRun rc count s) := by
  rcases openRun_cases rc count s with ⟨_, ho⟩ | ⟨hlt, _, _, ho⟩ | ⟨hlt, _, ho⟩ <;> rw [ho]
  · exact s.turnsTo_endSequence (.inl rfl)
  · exact (((s.consume 1).turnsTo_endSequence (.inr rfl)).of_consume (by omega)).mono (Nat.zero_le _)
  · refine ⟨rfl, ?_, .inr (.inl rfl)⟩
    exact (Nat.le_add_right _ 1).trans (State.consume_rcur_toNat (s := s) (n := 1) (by omega)).ge

theorem turnsTo_openLongRun : s.TurnsTo 0 (openLongRun rc s) := by
  rcases openLongRun_cases rc s with ⟨_, ho⟩ | ⟨hlt, _, ho⟩ | ⟨hlt, _, ho⟩ <;> rw [ho]
  · exact s.turnsTo_endSequence (.inl rfl)
  · exact ((s.consume 1).turnsTo_self.of_consume (by omega)).mono (Nat.zero_le _)
  · exact ((turnsTo_openRun (s := s.consume 1) hlen rc _).of_consume (by omega)).mono (Nat.zero_le _)

/-- A wire opcode fetched inside the frame is one turn, and consumes at least its own byte. -/
theorem exists_turn (hlt : s.rcur.toNat < s.flen.toNat) (b : Byte) :
    ∃ t, runWire b s = .next t ∧ s.TurnsTo 1 t := by
  have hone : s.rcur.toNat + 1 ≤ 64 := by omega
  rcases runWire_cases b s with ⟨_, ho⟩ | ⟨_, ho⟩ | ⟨_, _, ho⟩ <;> rw [ho]
  · exact ⟨_, rfl, (s.consume 1).turnsTo_self.of_consume hone⟩
  · refine ⟨_, withinFrame_of_le hlen _, ?_⟩
    split
    · exact (turnsTo_openLongRun (s := s.consume 1) hlen _).of_consume hone
    · exact (turnsTo_openRun (s := s.consume 1) hlen _ _).of_consume hone
  · exact ⟨_, rfl, ((s.consume 1).turnsTo_endSequence (.inr rfl)).of_consume hone⟩

end

/-! ## PRS_NEXT by its first turn -/

theorem scan_of_atEnd {s : State} (h : s.flen.toNat ≤ s.rcur.toNat) :
    ∀ n, scan n s = .next (s.endSequence .exhausted)
  | 0 => rfl
  | n + 1 => by rw [scan, if_pos (s.atEnd_iff.2 h)]

section
variable {s t : State} (hlt : s.rcur.toNat < s.flen.toNat) (ht : runWire s.cursorByte s = .next t) (n : Nat)
include hlt ht

theorem scan_succ_of_scanning (hp : t.pstate = .scanning) : scan (n + 1) s = scan n t := by
  rw [scan, if_neg (State.not_atEnd hlt)]
  simp only [ht, hp]

theorem scan_succ_of_inRun (hp : t.pstate = .inRun) : scan (n + 1) s = yieldElement t := by
  rw [scan, if_neg (State.not_atEnd hlt)]
  simp only [ht, hp]

theorem scan_succ_of_ended (he : t.Ended) : scan (n + 1) s = .next t := by
  rw [scan, if_neg (State.not_atEnd hlt)]
  rcases he.1 with hp | hp <;> simp only [ht, hp]

end

/-- Any two bounds that cover the bytes left give the same scan (R170). -/
theorem scan_eq_scan {s : State} {m n : Nat} (hlen : s.flen.toNat ≤ 64) (hp : s.pstate = .scanning)
    (hm : s.flen.toNat - s.rcur.toNat ≤ m) (hn : s.flen.toNat - s.rcur.toNat ≤ n) : scan m s = scan n s := by
  induction m generalizing s n with
  | zero => rw [scan_of_atEnd (by omega), scan_of_atEnd (by omega)]
  | succ m ih =>
    rcases Nat.lt_or_ge s.rcur.toNat s.flen.toNat with hlt | hend
    · obtain ⟨t, ht, hframe, hcursor, houtcome⟩ := exists_turn hlen hlt s.cursorByte
      obtain ⟨n, rfl⟩ := Nat.exists_eq_add_of_le' (show 1 ≤ n by omega)
      rcases houtcome with hsame | hrun | hended
      · have hscan := hsame.trans hp
        rw [scan_succ_of_scanning hlt ht m hscan, scan_succ_of_scanning hlt ht n hscan]
        exact ih (by rwa [hframe.flen_eq]) hscan (by rw [hframe.flen_eq]; omega) (by rw [hframe.flen_eq]; omega)
      · rw [scan_succ_of_inRun hlt ht m hrun, scan_succ_of_inRun hlt ht n hrun]
      · rw [scan_succ_of_ended hlt ht m hended, scan_succ_of_ended hlt ht n hended]
    · rw [scan_of_atEnd hend, scan_of_atEnd hend]

section
variable {s : State} (hf : s.fault = false) (hp : s.pstate = .scanning) (hlen : s.flen.toNat ≤ 64)
include hf hp hlen

theorem exec_prsNext_of_atEnd (hend : s.flen.toNat ≤ s.rcur.toNat) :
    exec .prsNext s = .next (s.endSequence .exhausted) := by
  rw [exec_prsNext_of_scanning hf hp hlen, scan_of_atEnd hend]

/-- The rest of the call after its first turn is PRS_NEXT again. -/
theorem exec_prsNext_of_turn {t : State} (hlt : s.rcur.toNat < s.flen.toNat)
    (ht : runWire s.cursorByte s = .next t) (hturn : s.TurnsTo 1 t) :
    exec .prsNext s = if t.parserLive then exec .prsNext t else .next t := by
  obtain ⟨hframe, hcursor, houtcome⟩ := hturn
  have hflen := hframe.flen_eq
  have hft := hframe.fault_eq.trans hf
  have hlent : t.flen.toNat ≤ 64 := by rwa [hflen]
  obtain ⟨n, hn⟩ := Nat.exists_eq_add_of_le' (show 1 ≤ s.flen.toNat - s.rcur.toNat by omega)
  rw [exec_prsNext_of_scanning hf hp hlen, hn]
  rcases houtcome with hsame | hrun | hended
  · have hscan := hsame.trans hp
    rw [if_pos (t.parserLive_iff.2 (.inl hscan)), scan_succ_of_scanning hlt ht n hscan,
      exec_prsNext_of_scanning hft hscan hlent]
    exact scan_eq_scan hlent hscan (by rw [hflen]; omega) le_rfl
  · rw [if_pos (t.parserLive_iff.2 (.inr hrun)), scan_succ_of_inRun hlt ht n hrun,
      exec_prsNext_of_inRun hft hrun hlent]
  · rw [if_neg (Bool.eq_false_iff.1 hended.not_live), scan_succ_of_ended hlt ht n hended]

end

/-- Settles O49: the turn at the cursor, and the rest of the scan as PRS_NEXT after it. -/
theorem prsNextRunsWireOpcode : Obligations.PrsNextRunsWireOpcode := by
  intro s hf hp hlen
  refine ⟨exec_prsNext_of_atEnd hf hp hlen, fun hlt => ?_⟩
  obtain ⟨t, ht, hturn⟩ := exists_turn hlen hlt s.cursorByte
  exact ⟨t, (runWire_eq_exec _ s).symm.trans ht, exec_prsNext_of_turn hf hp hlen hlt ht hturn⟩

end Sys2Proof.Machine
end

section
/-! The elements that PRS_NEXT yields, call after call (44_parser.md R170 to R172): those of one run, and that the calls
of PARSE_ALL (30_encoding.md R94) come to an end. -/

namespace Sys2Proof.Machine

/-! ## The elements of a run -/

theorem element_valid (id : BitVec 16) (rc : BitVec 2) (u : Word32) : (element id rc u).getLsbD 63 = true := by
  have h := congrArg (·.getLsbD 0) (element_fields id rc u).1
  simpa using h

theorem serve_prsNext {s : State} (hf : s.fault = false) : serve (prsNextTransaction s) s = exec .prsNext s :=
  serve_issue_encodeCommand (i := .prsNext) rfl rfl hf s.din

theorem collectElements_of_yield {s t : State} (hf : s.fault = false) (h : exec .prsNext s = .next t)
    (hv : t.dout.getLsbD 63 = true) (n : Nat) :
    collectElements (n + 1) s = (t.dout :: (collectElements n t).1, (collectElements n t).2) := by
  simp only [collectElements, serve_prsNext hf, h, hv, if_true]

theorem collectElements_of_ended {s t : State} (hf : s.fault = false) (h : exec .prsNext s = .next t)
    (he : t.Ended) (n : Nat) : collectElements (n + 1) s = ([], t) := by
  simp [collectElements, serve_prsNext hf, h, he.2]

/-- The elements of a run of n registers from the present state on (R171). -/
def State.runElements (s : State) (n : Nat) : List Word64 :=
  (List.range n).map fun k =>
    element (s.pnext + BitVec.ofNat 16 k) s.pres
      (s.fb.readLE (s.rcur.toNat + k * wireSize s.pres) (wireSize s.pres))

theorem State.runElements_succ {s : State} (hfit : s.rcur.toNat + wireSize s.pres ≤ 64) (n : Nat) :
    s.runElements (n + 1) = s.yielded.dout :: s.yielded.runElements n := by
  have hid (k : Nat) : s.pnext + BitVec.ofNat 16 (k + 1) = s.yielded.pnext + BitVec.ofNat 16 k := by
    rw [Nat.add_comm, BitVec.ofNat_add, ← BitVec.add_assoc]
    rfl
  have haddr (k : Nat) : s.rcur.toNat + (k + 1) * wireSize s.pres = s.yielded.rcur.toNat + k * wireSize s.pres := by
    rw [State.yielded_rcur_toNat hfit, Nat.succ_mul]
    omega
  have hfirst : element (s.pnext + BitVec.ofNat 16 0) s.pres
      (s.fb.readLE (s.rcur.toNat + 0 * wireSize s.pres) (wireSize s.pres)) = s.yielded.dout := by
    rw [Nat.zero_mul, Nat.add_zero, BitVec.add_zero, State.yielded]
  rw [State.runElements, List.range_succ_eq_map, List.map_cons, List.map_map, hfirst]
  refine congrArg _ (List.map_congr_left fun k _ => ?_)
  rw [Function.comp_apply, Nat.succ_eq_add_one, hid, haddr]
  rfl

/-- A run with n elements left, or the scan after its last one, yields them all. -/
theorem collectElements_run {s : State} {n : Nat} (hf : s.fault = false)
    (hp : s.pstate = if s.prem = 0#8 then .scanning else .inRun) (hlen : s.flen.toNat ≤ 64) (hprem : s.prem.toNat = n)
    (hid : s.pnext.toNat + n ≤ 510) (hfit : s.rcur.toNat + n * wireSize s.pres ≤ s.flen.toNat) :
    ∃ t, collectElements n s = (s.runElements n, t) ∧ s.ParserFrame t ∧ t.pstate = .scanning
      ∧ t.rcur.toNat = s.rcur.toNat + n * wireSize s.pres ∧ t.pnext.toNat = s.pnext.toNat + n := by
  induction n generalizing s with
  | zero =>
    have hzero : s.prem = 0#8 := BitVec.eq_of_toNat_eq hprem
    refine ⟨s, rfl, rfl, ?_, ?_, rfl⟩
    · rw [hp, if_pos hzero]
    · rw [Nat.zero_mul, Nat.add_zero]
  | succ n ih =>
    have hne : s.prem ≠ 0#8 := State.prem_ne_zero (by omega)
    rw [Nat.succ_mul] at hfit ⊢
    have hnext : exec .prsNext s = .next s.yielded := by
      rw [exec_prsNext_of_inRun hf (hp.trans (if_neg hne)) hlen]
      exact yieldElement_of_fits hne (by omega) (by omega)
    have hcur := State.yielded_rcur_toNat (s := s) (by omega)
    have hleft : s.yielded.prem.toNat = n := by
      rw [State.yielded_prem_toNat (by omega), hprem, Nat.add_sub_cancel]
    have hpn := State.yielded_pnext_toNat (s := s) (by omega)
    have hres : s.yielded.pres = s.pres := rfl
    obtain ⟨t, hcol, hframe, hscan, hend, hids⟩ := ih (s := s.yielded) hf s.yielded_pstate hlen hleft (by omega)
      (by rw [hcur, hres]; exact le_trans (by omega) hfit)
    refine ⟨t, ?_, State.ParserFrame.trans rfl hframe, hscan, ?_, ?_⟩
    · rw [collectElements_of_yield hf hnext (element_valid _ _ _), hcol, State.runElements_succ (by omega)]
    · rw [hend, hcur, hres]
      omega
    · omega

/-- Settles O53. -/
theorem runYieldsConsecutiveRegisters : Obligations.RunYieldsConsecutiveRegisters := by
  rintro s n w hf hp hlen hprem hpos hid rfl hfit
  have hne : s.prem ≠ 0#8 := State.prem_ne_zero (hprem ▸ hpos)
  obtain ⟨t, hcol, hframe, hscan, hcur, hids⟩ :=
    collectElements_run hf (hp.trans (if_neg hne).symm) hlen hprem hid hfit
  exact ⟨t, hcol, hcur, hscan, hframe.fb_eq, hframe.flen_eq, hids, hframe.fault_eq.trans hf⟩

/-! ## The whole frame -/

/-- What a call of PRS_NEXT leaves: the end of the sequence, or an element that took bytes of the frame. -/
def State.CallsTo (s t : State) : Prop :=
  s.ParserFrame t
  ∧ (t.Ended ∨ t.parserLive = true ∧ t.dout.getLsbD 63 = true ∧ s.rcur.toNat < t.rcur.toNat)

theorem wireSize_pos (rc : BitVec 2) : 0 < wireSize rc := by
  revert rc
  decide

theorem exists_call_of_inRun {s : State} (h : s.Inv) (hf : s.fault = false) (hp : s.pstate = .inRun) :
    ∃ t, exec .prsNext s = .next t ∧ s.CallsTo t := by
  obtain ⟨hprem, hsum⟩ := h.parser.2.2 hp
  have hne : s.prem ≠ 0#8 := State.prem_ne_zero hprem
  rw [exec_prsNext_of_inRun hf hp h.flen_le]
  rcases Nat.lt_or_ge s.flen.toNat (s.rcur.toNat + wireSize s.pres) with hmiss | hfit
  · exact ⟨_, yieldElement_of_missing hne hmiss, rfl, .inl ⟨.inl rfl, rfl⟩⟩
  · refine ⟨_, yieldElement_of_fits hne (by omega) hfit, rfl,
      .inr ⟨s.yielded_parserLive, element_valid _ _ _, ?_⟩⟩
    rw [State.yielded_rcur_toNat (hfit.trans h.flen_le)]
    exact Nat.lt_add_of_pos_right (wireSize_pos s.pres)

/-- Turn by turn, by the bytes left. -/
theorem exists_call {s : State} (h : s.Inv) (hf : s.fault = false) (hl : s.parserLive = true) :
    ∃ t, exec .prsNext s = .next t ∧ s.CallsTo t := by
  induction hk : s.flen.toNat - s.rcur.toNat using Nat.strong_induction_on generalizing s with
  | _ k ih =>
    rcases s.parserLive_iff.1 hl with hp | hp
    · rcases Nat.lt_or_ge s.rcur.toNat s.flen.toNat with hlt | hend
      · obtain ⟨t, ht, hturn⟩ := exists_turn h.flen_le hlt s.cursorByte
        rw [exec_prsNext_of_turn hf hp h.flen_le hlt ht hturn]
        have hframe := hturn.frame
        have hcursor := hturn.cursor
        rcases hturn.live_or_ended hp with hlive | hended
        · obtain ⟨u, hu, hframe', hcall⟩ := ih _ (by rw [hframe.flen_eq]; omega) (runWire_keepsInv _ h hlt t ht)
            (hframe.fault_eq.trans hf) hlive rfl
          rw [if_pos hlive]
          exact ⟨u, hu, hframe.trans hframe', hcall.imp_right fun ⟨hu, hv, hc⟩ => ⟨hu, hv, by omega⟩⟩
        · rw [if_neg (Bool.eq_false_iff.1 hended.not_live)]
          exact ⟨t, rfl, hframe, .inl hended⟩
      · exact ⟨_, exec_prsNext_of_atEnd hf hp h.flen_le hend, rfl, .inl ⟨.inl rfl, rfl⟩⟩
    · exact exists_call_of_inRun h hf hp

/-- As many calls as bytes are left, and one more, end the sequence. -/
theorem collectElements_ends {s : State} {n : Nat} (h : s.Inv) (hf : s.fault = false) (hl : s.parserLive = true)
    (hn : s.flen.toNat - s.rcur.toNat < n) :
    (collectElements n s).1.length ≤ s.flen.toNat - s.rcur.toNat ∧ s.ParserFrame (collectElements n s).2
    ∧ (collectElements n s).2.Ended := by
  induction n generalizing s with
  | zero => exact absurd hn (Nat.not_lt_zero _)
  | succ n ih =>
    obtain ⟨t, ht, hframe, hended | ⟨hlive, hv, hcur⟩⟩ := exists_call h hf hl
    · rw [collectElements_of_ended hf ht hended]
      exact ⟨Nat.zero_le _, hframe, hended⟩
    · have hinv : t.Inv := execPrsNext_keepsInv h t ht
      have hin := hinv.parser.2.1 hlive
      rw [hframe.flen_eq] at hin
      obtain ⟨hlength, hframe', hended⟩ := ih hinv (hframe.fault_eq.trans hf) hlive (by rw [hframe.flen_eq]; omega)
      rw [collectElements_of_yield hf ht hv]
      rw [hframe.flen_eq] at hlength
      exact ⟨by rw [List.length_cons]; omega, hframe.trans hframe', hended⟩

/-- The parser that PRS_INIT creates (R161). -/
def State.freshParser (s : State) : State :=
  { s with rcur := 0#7, pstate := .scanning, prem := 0#8, pres := 0#2, pnext := 0#16 }

theorem parseAll_eq {s : State} (hf : s.fault = false) : parseAll s = collectElements 65 s.freshParser := by
  have hserve : serve (.issue (encodeCommand .prsInit) s.din) s = .next s.freshParser :=
    (serve_issue_encodeCommand (i := .prsInit) rfl rfl hf s.din).trans (prsInitCreatesParser s hf)
  simp only [parseAll, hserve]

/-- Settles O54: 65 calls are one more than a frame has bytes. -/
theorem parseAllEnds : Obligations.ParseAllEnds := by
  intro s h hf
  have hinv : s.freshParser.Inv := execPrsInit_keepsInv h _ (prsInitCreatesParser s hf)
  have hleft : s.freshParser.flen.toNat - s.freshParser.rcur.toNat ≤ 64 := (Nat.sub_le _ _).trans h.flen_le
  obtain ⟨hlength, hframe, hover, hdout⟩ := collectElements_ends (n := 65) hinv hf rfl (Nat.lt_succ_of_le hleft)
  rw [parseAll_eq hf]
  exact ⟨hlength.trans hleft, hover, hdout, hframe.fault_eq.trans hf, hframe.fb_eq, hframe.flen_eq⟩

end Sys2Proof.Machine
end

section
/-! PRS_NEXT reads no byte at or beyond FLEN (44_parser.md R164): over another frame buffer that agrees below FLEN, each
part of the call has the same outcome but for the buffer. -/

namespace Sys2Proof.Machine

/-! ## Bytes and payloads -/

theorem Memory.readLE_congr {m m' : Memory} : ∀ {n a : Nat}, (∀ k, k < n → m.read (a + k) = m'.read (a + k)) →
    m.readLE a n = m'.readLE a n
  | 0, _, _ => rfl
  | n + 1, a, h => by
    have hrest : m.readLE (a + 1) n = m'.readLE (a + 1) n := Memory.readLE_congr fun k hk => by
      rw [Nat.add_assoc, Nat.add_comm 1]
      exact h (k + 1) (Nat.succ_lt_succ hk)
    rw [Memory.readLE, Memory.readLE, hrest, ← Nat.add_zero a, h 0 n.succ_pos]

/-- Another frame buffer under the same variables. -/
def State.withFb (s : State) (m : Memory) : State := { s with fb := m }

@[simp] theorem State.withFb_fb (s : State) (m : Memory) : (s.withFb m).fb = m := rfl
@[simp] theorem State.withFb_rcur (s : State) (m : Memory) : (s.withFb m).rcur = s.rcur := rfl
@[simp] theorem State.withFb_pstate (s : State) (m : Memory) : (s.withFb m).pstate = s.pstate := rfl
@[simp] theorem State.withFb_pres (s : State) (m : Memory) : (s.withFb m).pres = s.pres := rfl

section
variable {s : State} (m : Memory) {k k' : Result State}

theorem unlessFaulted_withFrame (hk : s.fault = false → k' = withFrame m k) :
    unlessFaulted (s.withFb m) k' = withFrame m (unlessFaulted s k) := by
  cases hf : s.fault with
  | false =>
    rw [unlessFaulted_of_running (s := s.withFb m) hf, unlessFaulted_of_running hf]
    exact hk hf
  | true =>
    rw [unlessFaulted_of_faulted (s := s.withFb m) hf, unlessFaulted_of_faulted hf]
    rfl

theorem withinFrame_withFrame (hk : s.flen.toNat ≤ 64 → k' = withFrame m k) :
    withinFrame (s.withFb m) k' = withFrame m (withinFrame s k) := by
  rcases withinFrame_cases (s := s) (k := k) rfl with ⟨hlong, ho⟩ | ⟨hlen, ho⟩
  · rw [ho]
    exact if_pos hlong
  · rw [withinFrame_of_le (s := s.withFb m) hlen, ← ho]
    exact hk hlen

end

/-- A frame buffer that agrees with the state's own below FLEN. -/
def State.AgreesBelow (s : State) (m : Memory) : Prop := ∀ a, a < s.flen.toNat → m.read a = s.readByte a

theorem State.AgreesBelow.of_frame {s t : State} {m : Memory} (h : s.AgreesBelow m) (hframe : s.ParserFrame t) :
    t.AgreesBelow m := fun a ha => by
  rw [State.readByte, hframe.fb_eq]
  exact h a (hframe.flen_eq ▸ ha)

section
variable {s : State} {m : Memory} (h : s.AgreesBelow m)
include h

theorem cursorByte_of_agrees (hlt : s.rcur.toNat < s.flen.toNat) :
    (s.withFb m).cursorByte = s.cursorByte := h _ hlt

theorem openRun_of_agrees (rc : BitVec 2) (count : Byte) :
    openRun rc count (s.withFb m) = (openRun rc count s).withFb m := by
  rcases openRun_cases rc count s with ⟨hend, ho⟩ | ⟨hlt, hstop, hreg, ho⟩ | ⟨hlt, hreg, ho⟩ <;> rw [ho]
  · exact openRun_of_atEnd (s := s.withFb m) rc hend count
  · exact openRun_of_stopped (s := s.withFb m) rc hlt hstop (by rwa [cursorByte_of_agrees h hlt]) count
  · rw [← cursorByte_of_agrees h hlt] at hreg ⊢
    exact openRun_of_opened (s := s.withFb m) rc hlt hreg count

theorem openLongRun_of_agrees (rc : BitVec 2) :
    openLongRun rc (s.withFb m) = (openLongRun rc s).withFb m := by
  rcases openLongRun_cases rc s with ⟨hend, ho⟩ | ⟨hlt, hcount, ho⟩ | ⟨hlt, hcount, ho⟩ <;> rw [ho]
  · exact openLongRun_of_atEnd (s := s.withFb m) rc hend
  · exact openLongRun_of_empty (s := s.withFb m) rc hlt ((cursorByte_of_agrees h hlt).trans hcount)
  · have hcur := cursorByte_of_agrees h hlt
    rw [openLongRun_of_counted (s := s.withFb m) rc hlt (by rwa [hcur]), hcur]
    exact openRun_of_agrees (s := s.consume 1) h rc _

theorem execMuxReply_of_agrees (rc c : BitVec 2) :
    execMuxReply rc c (s.withFb m) = withFrame m (execMuxReply rc c s) := by
  refine withinFrame_withFrame m fun _ => ?_
  split
  · exact congrArg _ (openLongRun_of_agrees (s := s.consume 1) h rc)
  · exact congrArg _ (openRun_of_agrees (s := s.consume 1) h rc _)

theorem runWire_of_agrees (b : Byte) : runWire b (s.withFb m) = withFrame m (runWire b s) := by
  have hreply := execMuxReply_of_agrees h (wireRC b) (wireC b)
  rw [runWire, runWire]
  cases wireFamily b with
  | reply => exact hreply
  | _ => rfl

theorem yieldElement_of_agrees : yieldElement (s.withFb m) = withFrame m (yieldElement s) := by
  have hread (hfit : s.rcur.toNat + wireSize s.pres ≤ s.flen.toNat) :
      m.readLE s.rcur.toNat (wireSize s.pres) = s.fb.readLE s.rcur.toNat (wireSize s.pres) :=
    Memory.readLE_congr fun k hk => h _ (by omega)
  simp only [yieldElement, apply_ite (withFrame m)]
  refine ite_congr rfl (fun _ => rfl) fun _ => ite_congr rfl (fun _ => rfl) fun hfit =>
    ite_congr rfl (fun _ => rfl) fun _ => ?_
  rw [State.withFb_fb, State.withFb_rcur, State.withFb_pres, hread (Nat.not_lt.1 hfit)]
  rfl

end

theorem scan_of_agrees {m : Memory} {s : State} {n : Nat} (hlen : s.flen.toNat ≤ 64) (h : s.AgreesBelow m)
    (hp : s.pstate = .scanning) : scan n (s.withFb m) = withFrame m (scan n s) := by
  induction n generalizing s with
  | zero => rfl
  | succ n ih =>
    rcases Nat.lt_or_ge s.rcur.toNat s.flen.toNat with hlt | hend
    · obtain ⟨t, ht, hframe, -, houtcome⟩ := exists_turn hlen hlt s.cursorByte
      have hm : runWire (s.withFb m).cursorByte (s.withFb m) = .next (t.withFb m) := by
        rw [cursorByte_of_agrees h hlt, runWire_of_agrees h, ht]
        rfl
      have hagree := h.of_frame hframe
      rcases houtcome with hsame | hrun | hended
      · have hscan := hsame.trans hp
        rw [scan_succ_of_scanning hlt ht n hscan, scan_succ_of_scanning (s := s.withFb m) hlt hm n hscan]
        exact ih (by rwa [hframe.flen_eq]) hagree hscan
      · rw [scan_succ_of_inRun hlt ht n hrun, scan_succ_of_inRun (s := s.withFb m) hlt hm n hrun]
        exact yieldElement_of_agrees hagree
      · rw [scan_succ_of_ended hlt ht n hended, scan_succ_of_ended (s := s.withFb m) hlt hm n hended]
        rfl
    · rw [scan_of_atEnd hend, scan_of_atEnd (s := s.withFb m) hend]
      rfl

/-- Settles O56: each place where the parser reads a byte is below FLEN. -/
theorem parserReadsOnlyTheFrame : Obligations.ParserReadsOnlyTheFrame := by
  intro s m h
  change exec .prsNext (s.withFb m) = _
  refine unlessFaulted_withFrame m fun hf => ?_
  rw [State.withFb_pstate]
  cases hp : s.pstate with
  | idle => exact (raise_of_running (s := s.withFb m) hf _).trans (congrArg (withFrame m) (raise_of_running hf _).symm)
  | scanning => exact withinFrame_withFrame m fun hlen => scan_of_agrees hlen h hp
  | inRun => exact withinFrame_withFrame m fun _ => yieldElement_of_agrees h
  | exhausted => rfl
  | error => rfl

end Sys2Proof.Machine
end

section
/-! The fault state (60_exceptions.md R203, R204, R207): how it is entered, what a command does in it, and the resets
that end it. -/

namespace Sys2Proof.Machine

/-- Settles O10. -/
theorem raiseRecordsFirstError : Obligations.RaiseRecordsFirstError := fun e _ =>
  ⟨fun hf => raise_of_running hf e, fun hf => raise_of_faulted hf e⟩

/-- Settles O9: each of these commands looks at FAULT before all else, and a wire opcode is no command. -/
theorem faultedCommandChangesNothing : Obligations.FaultedCommandChangesNothing := by
  intro i s hi hne hf
  cases i with
  | reset => exact absurd rfl hne
  | fbClear | fbPut | fbGet | fbSetlen | fbAppendRaw | fbAppendQ | qQuant | qDequant | cmbInit | cmbDecl | cmbStep
  | cmbEnd | prsInit | prsNext => exact unlessFaulted_of_faulted hf _
  | _ => exact absurd hi Bool.false_ne_true

/-- Settles O8: the word is run in the state that holds its DIN, which a reset clears again. -/
theorem faultedWordHasNoEffect : Obligations.FaultedWordHasNoEffect := by
  intro s w d rest hq hf
  have hstep : step s = runCommand w { s.withQueue rest with din := d } := step_of_queue_cons hq
  rw [hstep]
  refine ⟨runCommand_of_faulted hf, ?reset⟩
  case reset =>
    rintro rfl
    exact runCommand_reset_of_faulted hf

/-! ## The resets as the only way out -/

section
variable {s : State} (hf : s.fault = true)
include hf

theorem runCommand_of_faulted_or (w : Word32) : runCommand w s = .next s ∨ runCommand w s = .next s.resetAll := by
  by_cases hw : w = 0x00000001#32
  · rw [hw]
    exact .inr (runCommand_reset_of_faulted hf)
  · exact .inl (runCommand_of_faulted hf hw)

/-- An access to a faulted machine is served, and leaves FAULT and ERR or resets. -/
theorem exists_serve_of_faulted (a : Transaction) :
    ∃ t, serve a s = .next t ∧ ((t.fault = true ∧ t.err = s.err) ∨ t = s.resetAll) := by
  cases a with
  | issue w d =>
    rcases runCommand_of_faulted_or (s := { s with din := d }) hf w with ho | ho
    · exact ⟨_, ho, .inl ⟨hf, rfl⟩⟩
    · exact ⟨_, ho, .inr rfl⟩
  | write k v =>
    rcases hostWrite_cases (k := k) (v := v) (s := s) rfl with ⟨_, hrun⟩ | ⟨_, ho⟩ | ⟨_, ho⟩
    · rcases runCommand_of_faulted_or hf (v.setWidth 32) with ho | ho
      · exact ⟨_, hrun.symm.trans ho, .inl ⟨hf, rfl⟩⟩
      · exact ⟨_, hrun.symm.trans ho, .inr rfl⟩
    · exact ⟨_, ho, .inl ⟨hf, rfl⟩⟩
    · exact ⟨_, ho, .inl ⟨hf, rfl⟩⟩
  | read k => exact ⟨_, rfl, .inl ⟨hf, rfl⟩⟩
  | hardwareReset => exact ⟨_, rfl, .inr rfl⟩

end

/-- Settles O11: a step waits, or serves an access of the state whose queue is the rest. -/
theorem faultLeavesOnlyByReset : Obligations.FaultLeavesOnlyByReset := by
  intro s t hf hstep
  rcases step_cases hstep with ⟨_, ho⟩ | ⟨a, rest, _, ho⟩
  · cases ho
    exact .inl ⟨hf, rfl⟩
  · obtain ⟨u, hu, hcase⟩ := exists_serve_of_faulted (s := s.withQueue rest) hf a
    cases hu.symm.trans ho
    exact hcase.imp_right fun hreset => ⟨rest, hreset⟩

end Sys2Proof.Machine
end

section
/-! PRS_NEXT over a parser changes the parser's variables and DOUT alone, whatever the frame holds (60_exceptions.md
R202). No invariant is assumed, so a call may also stop; the claim is about its next state. -/

namespace Sys2Proof.Machine

/-- The outcome's next state, if it has one, differs from `s` in DOUT, RCUR and the parser's variables only. -/
def KeepsParserFrame (s : State) (o : Result State) : Prop := ∀ t, o = .next t → s.ParserFrame t

section
variable {s t : State} {o : Result State}

theorem keepsParserFrame_next (h : s.ParserFrame t) : KeepsParserFrame s (.next t) := by
  rintro _ ⟨⟩
  exact h

theorem keepsParserFrame_fault (r : Fault) : KeepsParserFrame s (.fault r) := fun _ h => nomatch h

theorem KeepsParserFrame.of_frame (h : s.ParserFrame t) (ho : KeepsParserFrame t o) : KeepsParserFrame s o :=
  fun u hu => h.trans (ho u hu)

theorem withinFrame_keepsParserFrame (ho : s.flen.toNat ≤ 64 → KeepsParserFrame s o) :
    KeepsParserFrame s (withinFrame s o) := by
  rcases withinFrame_cases (s := s) (k := o) rfl with ⟨_, hlong⟩ | ⟨hlen, hk⟩
  · rw [hlong]
    exact keepsParserFrame_fault _
  · rw [← hk]
    exact ho hlen

theorem yieldElement_keepsParserFrame (s : State) : KeepsParserFrame s (yieldElement s) := by
  rcases yieldElement_cases (s := s) rfl with ⟨_, ho⟩ | ⟨_, _, ho⟩ | ⟨_, _, _, ho⟩ | ⟨_, _, _, ho⟩ <;> rw [ho]
  · exact keepsParserFrame_fault _
  · exact keepsParserFrame_next rfl
  · exact keepsParserFrame_fault _
  · exact keepsParserFrame_next rfl

end

/-- Turn by turn: each keeps the frame, and so does what the scan does after it. -/
theorem scan_keepsParserFrame {s : State} {n : Nat} (hlen : s.flen.toNat ≤ 64) (hp : s.pstate = .scanning) :
    KeepsParserFrame s (scan n s) := by
  induction n generalizing s with
  | zero => exact keepsParserFrame_next rfl
  | succ n ih =>
    rcases Nat.lt_or_ge s.rcur.toNat s.flen.toNat with hlt | hend
    · obtain ⟨t, ht, hframe, -, houtcome⟩ := exists_turn hlen hlt s.cursorByte
      rcases houtcome with hsame | hrun | hended
      · have hscan := hsame.trans hp
        rw [scan_succ_of_scanning hlt ht n hscan]
        exact .of_frame hframe (ih (by rwa [hframe.flen_eq]) hscan)
      · rw [scan_succ_of_inRun hlt ht n hrun]
        exact .of_frame hframe (yieldElement_keepsParserFrame t)
      · rw [scan_succ_of_ended hlt ht n hended]
        exact keepsParserFrame_next hframe
    · rw [scan_of_atEnd hend]
      exact keepsParserFrame_next rfl

/-- Settles O55: only IDLE raises, and each other parser state keeps the frame. -/
theorem frameContentNeverFaults : Obligations.FrameContentNeverFaults := by
  intro s t hf hp hnext
  have hexec : KeepsParserFrame s (exec .prsNext s) := by
    rw [show exec .prsNext s = _ from unlessFaulted_of_running hf _]
    cases hstate : s.pstate with
    | idle => exact absurd hstate hp
    | scanning => exact withinFrame_keepsParserFrame fun hlen => scan_keepsParserFrame hlen hstate
    | inRun => exact withinFrame_keepsParserFrame fun _ => yieldElement_keepsParserFrame s
    | exhausted | error => exact keepsParserFrame_next rfl
  exact hexec t hnext

end Sys2Proof.Machine
end

section
/-! Every step from a state of the invariant gives a next state (60_exceptions.md R202, 70_reset_and_hazards.md R231,
R236).

Raising one of the spec's errors is a next state, so only the four faults of the model can stop a step: FLEN above 64, CI
above CN, and an open run without elements or with its ids at the top. The invariant excludes each where it is tested. -/

namespace Sys2Proof.Machine

/-- The outcome is a next state: no fault, no refusal. -/
def Completes (o : Result State) : Prop := ∃ t, o = .next t

theorem completes_next (t : State) : Completes (.next t) := ⟨t, rfl⟩

/-! ## The shared operations -/

section
variable {s : State} {k : Result State}

theorem raise_completes (e : ErrorKind) (s : State) : Completes (raise e s) := completes_next _

theorem unlessFaulted_completes (hk : Completes k) : Completes (unlessFaulted s k) := by
  cases hf : s.fault with
  | true => exact ⟨s, unlessFaulted_of_faulted hf k⟩
  | false =>
    rw [unlessFaulted_of_running hf]
    exact hk

theorem guardMutation_completes (hk : Completes k) : Completes (guardMutation s k) := by
  rcases guardMutation_cases (s := s) (k := k) rfl with ⟨_, ho⟩ | ⟨_, ho⟩ <;> rw [← ho]
  · exact raise_completes _ s
  · exact hk

theorem checkCapacity_completes (n : Nat) (hk : Completes k) : Completes (checkCapacity n s k) := by
  rcases checkCapacity_cases (n := n) (s := s) (k := k) rfl with ⟨_, ho⟩ | ⟨_, ho⟩ <;> rw [← ho]
  · exact raise_completes _ s
  · exact hk

theorem withinFrame_completes (hlen : s.flen.toNat ≤ 64) (hk : Completes k) : Completes (withinFrame s k) := by
  rwa [withinFrame_of_le hlen]

theorem ite_completes {c : Prop} [Decidable c] {k' : Result State} (hk : Completes k) (hk' : Completes k') :
    Completes (if c then k else k') := by
  split
  · exact hk
  · exact hk'

end

/-! ## The instructions -/

section
variable (s : State)

theorem execFbSetlen_completes (len : BitVec 7) : Completes (execFbSetlen len s) :=
  unlessFaulted_completes <| ite_completes (raise_completes _ s) <|
    guardMutation_completes (completes_next _)

theorem execFbAppendRaw_completes (res : Resolution) : Completes (execFbAppendRaw res s) := by
  refine unlessFaulted_completes <| guardMutation_completes ?_
  split
  · exact raise_completes _ s
  · exact checkCapacity_completes _ (completes_next _)

theorem execFbAppendQ_completes (res : Resolution) (qty : Quantity) : Completes (execFbAppendQ res qty s) := by
  refine unlessFaulted_completes <| guardMutation_completes ?_
  split
  · exact raise_completes _ s
  · exact checkCapacity_completes _ (completes_next _)

theorem execQQuant_completes (res : Resolution) (qty : Quantity) : Completes (execQQuant res qty s) := by
  refine unlessFaulted_completes ?_
  split
  · exact raise_completes _ s
  · exact completes_next _

theorem execQDequant_completes (res : Resolution) (qty : Quantity) : Completes (execQDequant res qty s) := by
  refine unlessFaulted_completes ?_
  split
  · exact raise_completes _ s
  · exact completes_next _
  · exact completes_next _

theorem execCmbInit_completes (base : Byte) : Completes (execCmbInit base s) :=
  unlessFaulted_completes <| ite_completes (raise_completes _ s) <|
    ite_completes (raise_completes _ s) <| completes_next _

theorem execCmbDecl_completes (res : Resolution) : Completes (execCmbDecl res s) :=
  unlessFaulted_completes <| ite_completes (raise_completes _ s) <|
    ite_completes (raise_completes _ s) <| ite_completes (raise_completes _ s) <| completes_next _

theorem execCmbEnd_completes : Completes (execCmbEnd s) :=
  unlessFaulted_completes <| ite_completes (raise_completes _ s) <|
    ite_completes (raise_completes _ s) <| completes_next _

theorem decideRegister_completes : Completes (decideRegister s) := by
  rcases decideRegister_cases (s := s) rfl with ⟨_, ho⟩ | ⟨_, _, ho⟩ | ⟨_, _, e, _, ho⟩ | ⟨_, _, _, ho⟩ <;> rw [ho]
  · exact completes_next _
  · exact completes_next _
  · exact raise_completes e s
  · exact completes_next _

end

section
variable {s : State} (h : s.Inv)
include h

/-- CI is not above CN (10_state.md R28). -/
theorem execCmbStep_completes : Completes (execCmbStep s) := by
  refine unlessFaulted_completes <| guardMutation_completes <| ite_completes (raise_completes _ s) <|
    ite_completes (raise_completes _ s) <| ?_
  rw [if_neg (BitVec.not_lt.2 h.combiner.1)]
  exact decideRegister_completes s

/-- Over a live parser the scan or the open run completes by `exists_call`; no other parser state reads the frame. -/
theorem execPrsNext_completes : Completes (execPrsNext s) := by
  cases hf : s.fault with
  | true => exact ⟨s, unlessFaulted_of_faulted hf _⟩
  | false =>
    have hlive (hl : s.parserLive = true) : Completes (execPrsNext s) :=
      (exists_call h hf hl).imp fun _ hcall => hcall.1
    cases hp : s.pstate with
    | idle => exact ⟨_, exec_prsNext_of_idle hf hp⟩
    | scanning => exact hlive (s.parserLive_iff.2 (.inl hp))
    | inRun => exact hlive (s.parserLive_iff.2 (.inr hp))
    | exhausted => exact ⟨_, exec_prsNext_of_over hf (.inl hp)⟩
    | error => exact ⟨_, exec_prsNext_of_over hf (.inr hp)⟩

/-- The commands and the wire opcodes: no instruction stops in a state of the invariant. -/
theorem exec_completes (i : Instr) : Completes (exec i s) := by
  cases i with
  | fbClear | fbGet | prsInit => exact unlessFaulted_completes (completes_next _)
  | fbPut => exact unlessFaulted_completes <| guardMutation_completes (completes_next _)
  | fbSetlen len => exact execFbSetlen_completes s len
  | fbAppendRaw res => exact execFbAppendRaw_completes s res
  | fbAppendQ res qty => exact execFbAppendQ_completes s res qty
  | qQuant res qty => exact execQQuant_completes s res qty
  | qDequant res qty => exact execQDequant_completes s res qty
  | cmbInit base => exact execCmbInit_completes s base
  | cmbDecl res => exact execCmbDecl_completes s res
  | cmbStep => exact execCmbStep_completes h
  | cmbEnd => exact execCmbEnd_completes s
  | prsNext => exact execPrsNext_completes h
  | muxReply => exact withinFrame_completes h.flen_le (completes_next _)
  | _ => exact completes_next _

/-! ## The step -/

theorem runCommand_completes (w : Word32) : Completes (runCommand w s) := by
  rcases runCommand_cases (w := w) (s := s) rfl with ⟨_, _, ho⟩ | ⟨_, _, ho⟩ | ⟨_, i, _, ho⟩ | ⟨_, _, _, ho⟩ <;> rw [ho]
  · exact completes_next _
  · exact completes_next _
  · exact exec_completes h i
  · exact completes_next _

theorem serve_completes (a : Transaction) : Completes (serve a s) := by
  cases a with
  | issue w d => exact runCommand_completes (h.setDin d) w
  | write k v =>
    rcases hostWrite_cases (k := k) (v := v) (s := s) rfl with ⟨_, ho⟩ | ⟨_, ho⟩ | ⟨_, ho⟩
    · exact (runCommand_completes h (v.setWidth 32)).imp fun _ hrun => ho.symm.trans hrun
    · exact ⟨_, ho⟩
    · exact ⟨_, ho⟩
  | read | hardwareReset => exact completes_next _

end

/-- Settles O15: a step waits, or serves one access in a state of the invariant. -/
theorem stepAlwaysCompletes : Obligations.StepAlwaysCompletes := by
  intro s h
  rcases step_cases (s := s) rfl with ⟨_, ho⟩ | ⟨a, rest, _, ho⟩
  · exact ⟨s, ho⟩
  · have hq : (s.withQueue rest).Inv := h
    rw [← ho]
    exact serve_completes hq a

end Sys2Proof.Machine
end

section
/-! The reset state and the two resets (70_reset_and_hazards.md R230, 45_control.md R190). Both leave `State.resetAll`,
whose parameters and host queue are those of the state before. -/

namespace Sys2Proof.Machine

/-! ## The reset state -/

/-- FB[0..63], and every index that does not exist (R230). -/
theorem State.reset_readByte (a : Nat) : State.reset.readByte a = 0x00#8 := rfl

/-- CRES[0..254] (R230). -/
theorem State.reset_cres_getElem? {k : Nat} (hk : k < 255) : State.reset.cres[k]? = some .ignore := by
  rw [State.reset, Vector.getElem?_replicate, if_pos hk]

/-- STATUS has CCUR = 4 in bits 10:8 alone (R230). -/
theorem State.reset_statusView : State.reset.statusView = 0x00000400#32 := by decide

theorem State.reset_lensView : State.reset.lensView = 0#32 := by decide

theorem State.reset_auxView : State.reset.auxView = 0#64 := by decide

/-- The reset state is what a reset of it leaves. -/
theorem State.resetAll_reset : State.reset.resetAll = State.reset := rfl

/-! ## The two resets -/

/-- RESET looks at no variable, FAULT included (60_exceptions.md R207). -/
theorem exec_reset (s : State) : exec .reset s = .next s.resetAll := rfl

theorem serve_hardwareReset (s : State) : serve .hardwareReset s = .next s.resetAll := rfl

/-- Settles O13: what every reset leaves meets the invariant, so the reset state does. -/
theorem resetSatisfiesInvariant : Obligations.ResetSatisfiesInvariant := by
  rw [Obligations.ResetSatisfiesInvariant, ← State.resetAll_reset]
  exact .resetAll .reset

/-- Settles O12: the table of R230 row by row, the table of R101 quantity by quantity, and the two resets. -/
theorem resetRestoresEveryVariable : Obligations.ResetRestoresEveryVariable := by
  refine ⟨?table, ⟨rfl, rfl, rfl, ?scales⟩, exec_reset, serve_hardwareReset⟩
  case table =>
    exact ⟨fun a _ => State.reset_readByte a, rfl, rfl, rfl, rfl, rfl, rfl, rfl, rfl, rfl, rfl, rfl, rfl,
      fun _ => State.reset_cres_getElem?, rfl, rfl, rfl, rfl,
      State.reset_statusView, State.reset_lensView, State.reset_auxView⟩
  case scales =>
    intro q
    cases q with
    | position | velocity | torque | pwm | voltage | temperature | time | current => rfl

end Sys2Proof.Machine
end
